-- ==== Sys2Proof/Word.lean ====
section
/-! DEFINITION. The two element widths of the block: a word of 32 bits and a byte of 8 bits (10_state.md R10). -/

namespace Sys2Proof

/-- A word: register element, command word, write data, response data (00_scope.md R5 `WORD`). -/
abbrev Word := BitVec 32

/-- A byte: element of IBUF, OBUF, ELUT and DLUT (10_state.md R10). -/
abbrev Byte := BitVec 8

end Sys2Proof
end

