-- ==== Sys2Proof/Syntax.lean ====
section
/-! DEFINITION. The commands of setseed CORE, one constructor per row of the opcode map (30_encoding.md R54). -/

namespace Sys2Proof

/-- A decoded command with its operands (30_encoding.md R52, R53).  `idx` counts elements and is unsigned; `wd` is the whole
write-data word of LDKEY, LDSID and LDPOS; `data` is `wd[7:0]` of IPUSH.  Operands a format does not use are absent. -/
inductive Instr where
  | nop
  | rdsr (idx : Nat)
  | srst
  | ldkey (idx : Nat) (wd : Word)
  | ldsid (idx : Nat) (wd : Word)
  | ldpos (idx : Nat) (wd : Word)
  | gen
  | rdx (idx : Nat)
  | iclr
  | ipush (data : Byte)
  | enc
  | dec
  | val
  | ord (idx : Nat)
  | rdelut (idx : Nat)
  | rddlut (idx : Nat)
  deriving DecidableEq, Repr

end Sys2Proof
end

