-- ==== Sys2Proof/WellFormed.lean ====
section
/-! DEFINITION. Which terms of `Instr` an encoding can carry: the index fits its 16-bit field (30_encoding.md R51).  An index
that fits but lies outside its space is well formed: it raises IndexRange when the command runs (30_encoding.md R55). -/

namespace Sys2Proof

/-- The index of a command of format I or ID (30_encoding.md R52). -/
def Instr.index? : Instr → Option Nat
  | .nop => none
  | .rdsr idx => some idx
  | .srst => none
  | .ldkey idx _ => some idx
  | .ldsid idx _ => some idx
  | .ldpos idx _ => some idx
  | .gen => none
  | .rdx idx => some idx
  | .iclr => none
  | .ipush _ => none
  | .enc => none
  | .dec => none
  | .val => none
  | .ord idx => some idx
  | .rdelut idx => some idx
  | .rddlut idx => some idx

/-- The index, where there is one, fits the field `cw[15:0]` (30_encoding.md R51). -/
def Instr.wellFormed (i : Instr) : Bool :=
  match i.index? with
  | none => true
  | some idx => decide (idx < 2 ^ 16)

end Sys2Proof
end

