-- ==== Sys2Proof/Decode.lean ====
section
/-! DEFINITION. The opcode map (30_encoding.md R54) as a table of rows, the decoder that matches a command word against it, and
the encoder written from the same fields.  A word that no row selects decodes to nothing; it is IllegalCommand (R55). -/

namespace Sys2Proof

/-! ### Fields of the command word (30_encoding.md R51) -/

/-- `op = cw[31:24]`. -/
def opField (cw : Word) : BitVec 8 := cw.extractLsb' 24 8

/-- `rsv = cw[23:16]`. -/
def rsvField (cw : Word) : BitVec 8 := cw.extractLsb' 16 8

/-- `idx = cw[15:0]`. -/
def idxField (cw : Word) : BitVec 16 := cw.extractLsb' 0 16

/-- `index = zext_32(cw[15:0])`, unsigned, unscaled (30_encoding.md R53). -/
def indexOf (cw : Word) : Nat := (idxField cw).toNat

/-- `wd[7:0]`, the data operand of IPUSH (30_encoding.md R53). -/
def dataByte (wd : Word) : Byte := wd.extractLsb' 0 8

/-! ### The opcode map -/

/-- The four formats (30_encoding.md R52). -/
inductive Format where
  | N
  | I
  | D
  | ID
  deriving DecidableEq, Repr

/-- One row of 30_encoding.md R54; `build` makes the command from the index and the write-data word. -/
structure OpcodeRow where
  mnemonic  : String
  format    : Format
  matchWord : Word
  mask      : Word
  build     : Nat → Word → Instr

/-- "a word `cw` selects the row iff `cw & mask == match`" (30_encoding.md R54). -/
def OpcodeRow.selects (r : OpcodeRow) (cw : Word) : Bool := cw &&& r.mask == r.matchWord

/-- Rows of the system commands (30_encoding.md R54). -/
def systemRows : List OpcodeRow :=
  [ ⟨"NOP",    .N,  0x00000000, 0xFFFFFFFF, fun _ _ => .nop⟩,
    ⟨"RDSR",   .I,  0x01000000, 0xFFFF0000, fun idx _ => .rdsr idx⟩,
    ⟨"SRST",   .N,  0x02000000, 0xFFFFFFFF, fun _ _ => .srst⟩ ]

/-- Rows of unit G (30_encoding.md R54). -/
def unitGRows : List OpcodeRow :=
  [ ⟨"LDKEY",  .ID, 0x10000000, 0xFFFF0000, fun idx wd => .ldkey idx wd⟩,
    ⟨"LDSID",  .ID, 0x11000000, 0xFFFF0000, fun idx wd => .ldsid idx wd⟩,
    ⟨"LDPOS",  .ID, 0x12000000, 0xFFFF0000, fun idx wd => .ldpos idx wd⟩,
    ⟨"GEN",    .N,  0x13000000, 0xFFFFFFFF, fun _ _ => .gen⟩,
    ⟨"RDX",    .I,  0x14000000, 0xFFFF0000, fun idx _ => .rdx idx⟩ ]

/-- Rows of unit B (30_encoding.md R54). -/
def unitBRows : List OpcodeRow :=
  [ ⟨"ICLR",   .N,  0x20000000, 0xFFFFFFFF, fun _ _ => .iclr⟩,
    ⟨"IPUSH",  .D,  0x21000000, 0xFFFFFFFF, fun _ wd => .ipush (dataByte wd)⟩,
    ⟨"ENC",    .N,  0x22000000, 0xFFFFFFFF, fun _ _ => .enc⟩,
    ⟨"DEC",    .N,  0x23000000, 0xFFFFFFFF, fun _ _ => .dec⟩,
    ⟨"VAL",    .N,  0x24000000, 0xFFFFFFFF, fun _ _ => .val⟩,
    ⟨"ORD",    .I,  0x25000000, 0xFFFF0000, fun idx _ => .ord idx⟩,
    ⟨"RDELUT", .I,  0x26000000, 0xFFFF0000, fun idx _ => .rdelut idx⟩,
    ⟨"RDDLUT", .I,  0x27000000, 0xFFFF0000, fun idx _ => .rddlut idx⟩ ]

/-- The opcode map of 30_encoding.md R54, sixteen rows. -/
def opcodeTable : List OpcodeRow := systemRows ++ unitGRows ++ unitBRows

/-- The decoder: "A decoder matches the table first (illegal if no row matches, rule R55)" (30_encoding.md R54).  It is total;
`none` is the illegal word.  The index is range-checked later, by the command (60_exceptions.md R133). -/
def decode (cw wd : Word) : Option Instr :=
  (opcodeTable.find? (·.selects cw)).map fun r => r.build (indexOf cw) wd

/-! ### The encoder (30_encoding.md R59) -/

/-- The opcode of each command (30_encoding.md R54). -/
def opcode : Instr → BitVec 8
  | .nop => 0x00
  | .rdsr _ => 0x01
  | .srst => 0x02
  | .ldkey _ _ => 0x10
  | .ldsid _ _ => 0x11
  | .ldpos _ _ => 0x12
  | .gen => 0x13
  | .rdx _ => 0x14
  | .iclr => 0x20
  | .ipush _ => 0x21
  | .enc => 0x22
  | .dec => 0x23
  | .val => 0x24
  | .ord _ => 0x25
  | .rdelut _ => 0x26
  | .rddlut _ => 0x27

/-- The command word with fields `op`, `rsv = 0` and `idx` (30_encoding.md R51). -/
def commandWord (op : BitVec 8) (idx : BitVec 16) : Word := op ++ ((0x00 : BitVec 8) ++ idx)

/-- The write-data word, 0 where the format has no data (30_encoding.md R59). -/
def writeData : Instr → Word
  | .nop => 0
  | .rdsr _ => 0
  | .srst => 0
  | .ldkey _ wd => wd
  | .ldsid _ wd => wd
  | .ldpos _ wd => wd
  | .gen => 0
  | .rdx _ => 0
  | .iclr => 0
  | .ipush data => data.setWidth 32
  | .enc => 0
  | .dec => 0
  | .val => 0
  | .ord _ => 0
  | .rdelut _ => 0
  | .rddlut _ => 0

/-- `cw = op << 24 | idx` and `wd = data` (30_encoding.md R59). -/
def encode (i : Instr) : Word × Word :=
  (commandWord (opcode i) (BitVec.ofNat 16 (i.index?.getD 0)), writeData i)

/-! ### Words as the opcode table numbers their bits

Bit 0 is the least significant bit of the command word; the write-data word is the second word, bits 63..32. -/

/-- The command word of a table word of `nbits` bits. -/
def tableCommandWord (nbits w : Nat) : Word := BitVec.ofNat 32 (w % 2 ^ nbits)

/-- The write-data word of a table word of `nbits` bits; 0 where the table gives 32 bits. -/
def tableWriteData (nbits w : Nat) : Word := BitVec.ofNat 32 ((w % 2 ^ nbits) / 2 ^ 32)

/-- The command the decoder reads from a word of the opcode table. -/
def decodeTableWord (nbits w : Nat) : Option Instr :=
  decode (tableCommandWord nbits w) (tableWriteData nbits w)

end Sys2Proof
end

