-- ==== Sys2Proof/Config.lean ====
section
/-! DEFINITION. What one implementation fixes (00_scope.md R5): the parameters SLOT_MAP, NB and ID_VALUE as a record,
OB derived from NB, and the open latencies as constants nothing can evaluate. -/

namespace Sys2Proof

/-- Which state words hold stream_id and which hold pos (00_scope.md R5, 41_chacha.md R87). -/
inductive SlotMap where
  | sidFirst
  | posFirst
  deriving DecidableEq, Repr

/-- The configuration of one instance (00_scope.md R5, 10_state.md R25).  `OB` is a function of `nb` (log 7). -/
structure Config where
  slotMap : SlotMap
  nb      : Nat
  idValue : Word
  deriving DecidableEq, Repr

/-- `OB = 4 * ceil(NB / 3)` (00_scope.md R6). -/
def Config.ob (c : Config) : Nat := 4 * ((c.nb + 2) / 3)

/-- The admissible values of NB (00_scope.md R5); SLOT_MAP and ID_VALUE admit every value of their types. -/
abbrev Config.wf (c : Config) : Prop := 1 ≤ c.nb ∧ c.nb ≤ 49149

/-- The defaults of 00_scope.md R5. -/
def Config.default : Config := { slotMap := .sidFirst, nb := 192, idValue := 0x53530801 }

/-! ### Open latencies (70_reset_and_hazards.md R157)

Each is a constant without a body: no proof can learn its value.  What a latency may depend on is what its arguments
carry.  No meaning of a command reads one; the port layer (Machine/Port.lean) does (log 10). -/

/-- `T_RESET`: cycles from the release of `rst_n` to the first `cmd_ready = 1`. -/
opaque Config.tReset : Nat

/-- `T_<mnemonic>` of a command whose latency may depend on its opcode and its index at most. -/
opaque Config.tCommand : BitVec 8 → Nat → Nat

/-- Unbounded part of `T_ENC`, `T_DEC`, `T_VAL`: by opcode, ILEN and the first offending position. -/
opaque Config.tCodec : BitVec 8 → Nat → Option Nat → Nat

/-- Slope of the linear bound on `T_ENC`, `T_DEC`, `T_VAL`, by opcode. -/
opaque Config.tSlope : BitVec 8 → Nat

/-- Constant part of the linear bound on `T_ENC`, `T_DEC`, `T_VAL`, by opcode. -/
opaque Config.tBase : BitVec 8 → Nat

/-- Latency of a command that ends in IllegalCommand or IndexRange: by the command word, and by OLEN for ORD. -/
opaque Config.tError : Word → Nat → Nat

/-- Cycles from the delivery of a response to `cmd_ready = 1` (70_reset_and_hazards.md R158 says finitely many; log 11).
DESIGN CHOICE (log 11): it depends on the command word alone, not on the state, the write data or the response; R158 does not say
what it may depend on, and the table of R157 has no row for it. -/
opaque Config.tRearm : Word → Nat

end Sys2Proof
end

