-- ==== Sys2Proof/Machine/State.lean ====
section
/-! DEFINITION. The state of the block (10_state.md R10, R25) beside its configuration and the two ends of a run
(70_reset_and_hazards.md R160): the host events still to come and the responses delivered so far. -/

namespace Sys2Proof.Machine

/-- A response `(err[3:0], data[31:0])` (30_encoding.md R58). -/
structure Response where
  err  : BitVec 4
  data : Word
  deriving DecidableEq, Repr

/-- A host event (70_reset_and_hazards.md R160): "each either a command or a reset".  `cutByReset` is a command accepted and
then abandoned because reset arrived before its response (70_reset_and_hazards.md R159). -/
inductive HostEvent where
  | command (cw wd : Word)
  | reset
  | cutByReset (cw wd : Word)
  deriving DecidableEq, Repr

/-- The machine.  `key`, `sid`, `pos`, `x`, `ibuf`, `obuf` are the architectural state of 10_state.md R25 (ILEN and OLEN are the
lengths of the two lists).  `cfg` is the configuration, which no step changes (log 1); `pending` and `responses` are the
model's own ends of a run (log 2, log 3). -/
structure State where
  cfg       : Config
  key       : Vector Word 8
  sid       : Vector Word 2
  pos       : Vector Word 2
  x         : Vector Word 16
  ibuf      : List Byte
  obuf      : List Byte
  pending   : List HostEvent
  responses : List Response
  deriving DecidableEq, Repr

/-- Why the machine could stop.  NO constructor: every command word has a response in every state (00_scope.md R4) and "the
block never hangs and never deadlocks" (70_reset_and_hazards.md R158); an error is a response, not a stop (log 8). -/
inductive Fault where
  deriving DecidableEq, Repr

/-- Why a command could have no meaning. -/
inductive Refusal where
  /-- Raised by an arm of `exec` that has no meaning yet; safe (the run stops).  No arm raises it: every command is modelled. -/
  | notModelled (mnemonic : String)
  deriving DecidableEq, Repr

/-- The reset state of 10_state.md R23 in a given configuration, with nothing to come and nothing delivered. -/
def State.resetWith (c : Config) : State :=
  { cfg := c
    key := Vector.replicate 8 0
    sid := Vector.replicate 2 0
    pos := Vector.replicate 2 0
    x := Vector.replicate 16 0
    ibuf := []
    obuf := []
    pending := []
    responses := [] }

/-- The machine right after reset (10_state.md R23, 70_reset_and_hazards.md R150), with the default configuration of 00_scope.md R5. -/
def State.reset : State := State.resetWith Config.default

end Sys2Proof.Machine
end

