-- ==== Sys2Proof/Machine/Flags.lean ====
section
/-! DEFINITION. The block has no flags (10_state.md R16).  What a command says about its outcome is the error code of its
response: this file holds the error names and their numbers (60_exceptions.md R130). -/

namespace Sys2Proof.Machine

/-- The names of 60_exceptions.md R130.  `invalidKeyLength` is reserved: no command raises it (60_exceptions.md R140). -/
inductive Err where
  | ok
  | invalidKeyLength
  | invalidBase64Length
  | invalidBase64Character
  | illegalCommand
  | indexRange
  | bufferFull
  deriving DecidableEq, Repr

/-- The error numbers of 60_exceptions.md R130. -/
def Err.code : Err → BitVec 4
  | .ok => 0
  | .invalidKeyLength => 1
  | .invalidBase64Length => 2
  | .invalidBase64Character => 3
  | .illegalCommand => 8
  | .indexRange => 9
  | .bufferFull => 10

end Sys2Proof.Machine
end

