-- ==== Sys2Proof/Machine/Ops.lean ====
section
/-! DEFINITION. The named operations over the state: the two ways a command ends (respond, raise), reset, the writes of the
register files and of the two byte buffers, and the word arithmetic of unit G (41_chacha.md R85). -/

namespace Sys2Proof.Machine

/-! ### Word arithmetic (41_chacha.md R85) -/

/-- `add32(a, b) = (a + b) mod 2^32`; the carry is discarded. -/
def add32 (a b : Word) : Word := a + b

/-- `xor32(a, b)`, bitwise exclusive or. -/
def xor32 (a b : Word) : Word := a ^^^ b

/-- `rotl32(v, n) = ((v << n) mod 2^32) | (v >> (32 - n))`, for 0 < n < 32. -/
def rotl32 (v : Word) (n : Nat) : Word := (v <<< n) ||| (v >>> (32 - n))

/-- `zext_32` of a byte (20_memory.md R36). -/
def zextByte (b : Byte) : Word := b.setWidth 32

/-- `zext_32` of a count: a length or an index, which is below 2^16 in every reachable state (00_scope.md R6). -/
def zextNat (n : Nat) : Word := BitVec.ofNat 32 n

/-! ### How a command ends -/

/-- `respond(v)`: "end the command with response `(0, v)`" (00_scope.md section 6, 30_encoding.md R58). -/
def State.respond (s : State) (v : Word) : State :=
  { s with responses := s.responses ++ [⟨Err.ok.code, v⟩] }

/-- `raise e(info)`, the taking of an exception: the response `(code(e), info)` is delivered and NOTHING else happens: no state
changes, nothing is saved, control goes nowhere (60_exceptions.md R134).  There is no return from it (60_exceptions.md R136). -/
def State.raise (s : State) (e : Err) (info : Word) : State :=
  { s with responses := s.responses ++ [⟨e.code, info⟩] }

/-- Reset of the architectural state to the values of 10_state.md R23, by SRST (40_system.md R72) and by the reset event
(70_reset_and_hazards.md R150).  The configuration, the host's coming events and the delivered responses are not the block's. -/
def State.clear (s : State) : State :=
  { s with
    key := Vector.replicate 8 0
    sid := Vector.replicate 2 0
    pos := Vector.replicate 2 0
    x := Vector.replicate 16 0
    ibuf := []
    obuf := [] }

/-! ### Register files of unit G (10_state.md R11 to R14) -/

/-- `KEY[i] <- w`. -/
def State.setKey (s : State) (i : Fin 8) (w : Word) : State := { s with key := s.key.set i w }

/-- `SID[i] <- w`. -/
def State.setSid (s : State) (i : Fin 2) (w : Word) : State := { s with sid := s.sid.set i w }

/-- `POS[i] <- w`. -/
def State.setPos (s : State) (i : Fin 2) (w : Word) : State := { s with pos := s.pos.set i w }

/-- `X[0..15] <- v`, one atomic update (20_memory.md R38). -/
def State.setX (s : State) (v : Vector Word 16) : State := { s with x := v }

/-! ### Byte buffers of unit B (10_state.md R18, R19, R25) -/

/-- ILEN, the fill length of IBUF. -/
def State.ilen (s : State) : Nat := s.ibuf.length

/-- OLEN, the result length of OBUF. -/
def State.olen (s : State) : Nat := s.obuf.length

/-- `ILEN <- 0`: the old bytes become unobservable (42_base64.md R103). -/
def State.clearInput (s : State) : State := { s with ibuf := [] }

/-- `IBUF[ILEN] <- b; ILEN <- ILEN + 1` (42_base64.md R104). -/
def State.appendInput (s : State) (b : Byte) : State := { s with ibuf := s.ibuf ++ [b] }

/-- `OBUF[0 .. len(t)-1] <- t; OLEN <- len(t)` (42_base64.md R105, R107). -/
def State.setOutput (s : State) (t : List Byte) : State := { s with obuf := t }

/-- The capacities hold: ILEN <= NB and OLEN <= OB (10_state.md R18, R19).  With the buffers held as lists of their fill
length (10_state.md R25) this is the whole canonical form of the block's storage (log 6). -/
abbrev Memory.wf (s : State) : Prop := s.ibuf.length ≤ s.cfg.nb ∧ s.obuf.length ≤ s.cfg.ob

end Sys2Proof.Machine
end

