-- ==== Sys2Proof/Machine/Operands.lean ====
section
/-! DEFINITION. The operand forms: the index of formats I and ID with its range check (20_memory.md R39), the bound of every
index space (60_exceptions.md R131), and the read of a system register (10_state.md R17). -/

namespace Sys2Proof.Machine

/-- The range check every indexed command makes first: an index below the bound of its space goes on, any other raises
IndexRange with the index as information and changes nothing (20_memory.md R39, 60_exceptions.md R132). -/
def State.withIndex (s : State) (idx bound : Nat) (body : Fin bound → State) : State :=
  if h : idx < bound then body ⟨idx, h⟩ else s.raise .indexRange (zextNat idx)

/-- The bound of the index space of each command of format I or ID (60_exceptions.md R131); for ORD it is the current OLEN. -/
def State.indexBound? (s : State) : Instr → Option Nat
  | .nop => none
  | .rdsr _ => some 4
  | .srst => none
  | .ldkey _ _ => some 8
  | .ldsid _ _ => some 2
  | .ldpos _ _ => some 2
  | .gen => none
  | .rdx _ => some 16
  | .iclr => none
  | .ipush _ => none
  | .enc => none
  | .dec => none
  | .val => none
  | .ord _ => some s.olen
  | .rdelut _ => some 64
  | .rddlut _ => some 256

/-- The command has an index and it lies outside its space (60_exceptions.md R131, IndexRange). -/
def State.indexOutOfRange (s : State) (i : Instr) : Bool :=
  match i.index?, s.indexBound? i with
  | some idx, some bound => decide (bound ≤ idx)
  | _, _ => false

/-- The system registers (10_state.md R17): SR0 = ID_VALUE, SR1 = OB and NB, SR2 = ILEN, SR3 = OLEN. -/
def State.sysReg (s : State) : Fin 4 → Word
  | 0 => s.cfg.idValue
  | 1 => BitVec.ofNat 16 s.cfg.ob ++ BitVec.ofNat 16 s.cfg.nb
  | 2 => zextNat s.ilen
  | 3 => zextNat s.olen

end Sys2Proof.Machine
end

