-- ==== Sys2Proof/Machine/Base64.lean ====
section
/-! DEFINITION. Unit B: the tables ELUT and DLUT (42_base64.md R100 to R102), the functions ENCODE, DECODE_CHECK and DECODE
(42_base64.md R106, R108, R109), and the commands ICLR, IPUSH, ENC, DEC, VAL, ORD, RDELUT, RDDLUT (R103 to R113). -/

namespace Sys2Proof.Machine

/-! ### Tables -/

/-- The padding character `=` (42_base64.md R100). -/
def padChar : Byte := 0x3D

/-- ELUT in its closed form (42_base64.md R100). -/
def elut (v : BitVec 6) : Byte :=
  let n := v.toNat
  if n ≤ 25 then BitVec.ofNat 8 (0x41 + n)
  else if n ≤ 51 then BitVec.ofNat 8 (0x61 + (n - 26))
  else if n ≤ 61 then BitVec.ofNat 8 (0x30 + (n - 52))
  else if n = 62 then 0x2B
  else 0x2F

/-- DLUT, entry by range (42_base64.md R101): class in bits [7:6], sextet value in bits [5:0]. -/
def dlut (c : Byte) : Byte :=
  let n := c.toNat
  if n ≤ 0x2A then 0x00
  else if n = 0x2B then 0x7E
  else if n ≤ 0x2E then 0x00
  else if n = 0x2F then 0x7F
  else if n ≤ 0x39 then BitVec.ofNat 8 (0x74 + (n - 0x30))
  else if n ≤ 0x3C then 0x00
  else if n = 0x3D then 0x80
  else if n ≤ 0x40 then 0x00
  else if n ≤ 0x5A then BitVec.ofNat 8 (0x40 + (n - 0x41))
  else if n ≤ 0x60 then 0x00
  else if n ≤ 0x7A then BitVec.ofNat 8 (0x5A + (n - 0x61))
  else 0x00

/-- The character classes (10_state.md R21). -/
inductive CharClass where
  | invalid
  | data
  | pad
  deriving DecidableEq, Repr

/-- `class(c) = DLUT[c][7:6]`: 0b01 data, 0b10 pad, else invalid (0b11 never occurs) (42_base64.md R102, 10_state.md R21). -/
def charClass (c : Byte) : CharClass :=
  let k : BitVec 2 := (dlut c).extractLsb' 6 2
  if k = 0b01 then .data else if k = 0b10 then .pad else .invalid

/-- `value(c) = DLUT[c][5:0]` (42_base64.md R102). -/
def sextet (c : Byte) : BitVec 6 := (dlut c).extractLsb' 0 6

/-! ### ENCODE (42_base64.md R106) -/

/-- Three bytes as 24 bits, the first byte most significant. -/
def groupBits (a b c : Byte) : BitVec 24 := (a ++ b) ++ c

/-- The character of the sextet at bits `[lo+5 : lo]` of a 24-bit group. -/
def sextetChar (v : BitVec 24) (lo : Nat) : Byte := elut (v.extractLsb' lo 6)

/-- `ENCODE(b)`: full groups of three bytes to four characters, then the group of one or two leftover bytes, padded with zero
bits and with `=` characters. -/
def b64Encode : List Byte → List Byte
  | [] => []
  | [a] =>
    let v := groupBits a 0 0
    [sextetChar v 18, sextetChar v 12, padChar, padChar]
  | [a, b] =>
    let v := groupBits a b 0
    [sextetChar v 18, sextetChar v 12, sextetChar v 6, padChar]
  | a :: b :: c :: rest =>
    let v := groupBits a b c
    [sextetChar v 18, sextetChar v 12, sextetChar v 6, sextetChar v 0] ++ b64Encode rest

/-! ### DECODE_CHECK (42_base64.md R108) -/

/-- The outcomes of DECODE_CHECK. -/
inductive CheckResult where
  | ok
  | badLength (n : Nat)
  | badCharacter (i : Nat)
  deriving DecidableEq, Repr

/-- Whether step 2 of DECODE_CHECK lets the character `c` stand at index `i` of `t`: class data; or class pad as the last
character; or class pad as the last but one when the last is also a pad. -/
def charAccepted (t : List Byte) (i : Nat) (c : Byte) : Bool :=
  match charClass c with
  | .data => true
  | .pad => decide (i + 1 = t.length) ||
      (decide (i + 2 = t.length) && decide (t.getLast?.map charClass = some .pad))
  | .invalid => false

/-- The lowest index whose character fails step 2 of DECODE_CHECK. -/
def firstOffender (t : List Byte) : Option Nat :=
  (t.zipIdx.find? fun p => !charAccepted t p.2 p.1).map (·.2)

/-- `DECODE_CHECK(t)`: the length first, then the characters in ascending order. -/
def decodeCheck (t : List Byte) : CheckResult :=
  if t.length % 4 ≠ 0 then .badLength t.length
  else match firstOffender t with
    | some i => .badCharacter i
    | none => .ok

/-! ### DECODE (42_base64.md R109) -/

/-- The 24 bits of four characters, the first most significant; `value('=') = 0`. -/
def quantumBits (a b c d : Byte) : BitVec 24 := ((sextet a ++ sextet b) ++ sextet c) ++ sextet d

/-- `k`, the number of pad characters among four. -/
def padCount (t : List Byte) : Nat := t.countP fun c => decide (charClass c = .pad)

/-- The bytes of one quantum: one, then a second if `k <= 1`, then a third if `k = 0`. -/
def decodeQuantum (a b c d : Byte) : List Byte :=
  let v := quantumBits a b c d
  let k := padCount [a, b, c, d]
  [v.extractLsb' 16 8] ++ (if k ≤ 1 then [v.extractLsb' 8 8] else []) ++ (if k = 0 then [v.extractLsb' 0 8] else [])

/-- `DECODE(t)`; used only when `DECODE_CHECK(t) = OK`, so that no characters are left over at the end. -/
def b64Decode : List Byte → List Byte
  | a :: b :: c :: d :: rest => decodeQuantum a b c d ++ b64Decode rest
  | _ => []

/-! ### VAL (42_base64.md R110) -/

/-- `is_valid_base64`: every character has class data or pad. -/
def b64Valid (t : List Byte) : Bool := t.all fun c => decide (charClass c ≠ .invalid)

/-! ### Commands -/

/-- ICLR (42_base64.md R103). -/
def execIclr (s : State) : Host.Outcome State Fault Refusal :=
  .next (s.clearInput.respond 0)

/-- IPUSH data (42_base64.md R104). -/
def execIpush (data : Byte) (s : State) : Host.Outcome State Fault Refusal :=
  .next (if s.ilen = s.cfg.nb then s.raise .bufferFull (zextNat s.ilen) else (s.appendInput data).respond 0)

/-- ENC (42_base64.md R105). -/
def execEnc (s : State) : Host.Outcome State Fault Refusal :=
  let t := s.setOutput (b64Encode s.ibuf)
  .next (t.respond (zextNat t.olen))

/-- DEC (42_base64.md R107). -/
def execDec (s : State) : Host.Outcome State Fault Refusal :=
  match decodeCheck s.ibuf with
  | .badLength n => .next (s.raise .invalidBase64Length (zextNat n))
  | .badCharacter i => .next (s.raise .invalidBase64Character (zextNat i))
  | .ok =>
    let t := s.setOutput (b64Decode s.ibuf)
    .next (t.respond (zextNat t.olen))

/-- VAL (42_base64.md R110). -/
def execVal (s : State) : Host.Outcome State Fault Refusal :=
  .next (s.respond (if b64Valid s.ibuf then 1 else 0))

/-- ORD idx (42_base64.md R111): the bound is OLEN, not the capacity. -/
def execOrd (idx : Nat) (s : State) : Host.Outcome State Fault Refusal :=
  .next (s.withIndex idx s.obuf.length fun i => s.respond (zextByte s.obuf[i]))

/-- RDELUT idx (42_base64.md R112). -/
def execRdelut (idx : Nat) (s : State) : Host.Outcome State Fault Refusal :=
  .next (s.withIndex idx 64 fun i => s.respond (zextByte (elut (BitVec.ofNat 6 i))))

/-- RDDLUT idx (42_base64.md R113). -/
def execRddlut (idx : Nat) (s : State) : Host.Outcome State Fault Refusal :=
  .next (s.withIndex idx 256 fun i => s.respond (zextByte (dlut (BitVec.ofNat 8 i))))

end Sys2Proof.Machine
end

