-- ==== Sys2Proof/Machine/Chacha.lean ====
section
/-! DEFINITION. Unit G: the ChaCha-8 functions (41_chacha.md R86 to R93) and the commands LDKEY, LDSID, LDPOS, GEN, RDX
(41_chacha.md R80 to R84). -/

namespace Sys2Proof.Machine

/-! ### Functions -/

/-- `QR(a, b, c, d)`, the twelve steps of 41_chacha.md R86 in their order. -/
def qr (a b c d : Word) : Word × Word × Word × Word :=
  let a := add32 a b
  let d := xor32 d a
  let d := rotl32 d 16
  let c := add32 c d
  let b := xor32 b c
  let b := rotl32 b 12
  let a := add32 a b
  let d := xor32 d a
  let d := rotl32 d 8
  let c := add32 c d
  let b := xor32 b c
  let b := rotl32 b 7
  (a, b, c, d)

/-- "`QR at (i, j, k, l)`" on a 16-word state (41_chacha.md R86). -/
def qrAt (i j k l : Fin 16) (x : Vector Word 16) : Vector Word 16 :=
  let r := qr x[i] x[j] x[k] x[l]
  (((x.set i r.1).set j r.2.1).set k r.2.2.1).set l r.2.2.2

/-- `COLROUND(x)` (41_chacha.md R88). -/
def colRound (x : Vector Word 16) : Vector Word 16 :=
  qrAt 3 7 11 15 (qrAt 2 6 10 14 (qrAt 1 5 9 13 (qrAt 0 4 8 12 x)))

/-- `DIAGROUND(x)` (41_chacha.md R89). -/
def diagRound (x : Vector Word 16) : Vector Word 16 :=
  qrAt 3 4 9 14 (qrAt 2 7 8 13 (qrAt 1 6 11 12 (qrAt 0 5 10 15 x)))

/-- `DROUND(x) = DIAGROUND(COLROUND(x))` (41_chacha.md R90). -/
def doubleRound (x : Vector Word 16) : Vector Word 16 := diagRound (colRound x)

/-- `PERM8(x)`, four double-rounds (41_chacha.md R91). -/
def perm8 (x : Vector Word 16) : Vector Word 16 :=
  doubleRound (doubleRound (doubleRound (doubleRound x)))

/-- `INIT(KEY, SID, POS)` (41_chacha.md R87), with the constant words of 20_memory.md R34. -/
def initState (m : SlotMap) (key : Vector Word 8) (sid pos : Vector Word 2) : Vector Word 16 :=
  let tail : Vector Word 4 :=
    match m with
    | .sidFirst => #v[sid[0], sid[1], pos[0], pos[1]]
    | .posFirst => #v[pos[0], pos[1], sid[0], sid[1]]
  #v[0x61707865, 0x3320646E, 0x79622D32, 0x6B206574,
     key[0], key[1], key[2], key[3], key[4], key[5], key[6], key[7],
     tail[0], tail[1], tail[2], tail[3]]

/-- `FF(m, s)[i] = add32(m[i], s[i])` (41_chacha.md R92). -/
def feedForward (m s : Vector Word 16) : Vector Word 16 := Vector.zipWith add32 m s

/-- `GENERATE(KEY, SID, POS) = FF(PERM8(S), S)` where `S = INIT(KEY, SID, POS)` (41_chacha.md R93).
One closed expression: it is a function of its operands and of SLOT_MAP, and nothing about avalanche or distinctness of its
outputs is assumed (41_chacha.md R96). -/
def generate (m : SlotMap) (key : Vector Word 8) (sid pos : Vector Word 2) : Vector Word 16 :=
  feedForward (perm8 (initState m key sid pos)) (initState m key sid pos)

/-! ### Commands -/

/-- LDKEY idx, data (41_chacha.md R80). -/
def execLdkey (idx : Nat) (wd : Word) (s : State) : Host.Outcome State Fault Refusal :=
  .next (s.withIndex idx 8 fun i => (s.setKey i wd).respond 0)

/-- LDSID idx, data (41_chacha.md R81). -/
def execLdsid (idx : Nat) (wd : Word) (s : State) : Host.Outcome State Fault Refusal :=
  .next (s.withIndex idx 2 fun i => (s.setSid i wd).respond 0)

/-- LDPOS idx, data (41_chacha.md R82). -/
def execLdpos (idx : Nat) (wd : Word) (s : State) : Host.Outcome State Fault Refusal :=
  .next (s.withIndex idx 2 fun i => (s.setPos i wd).respond 0)

/-- GEN (41_chacha.md R83): X takes the whole block; KEY, SID and POS are not modified. -/
def execGen (s : State) : Host.Outcome State Fault Refusal :=
  .next ((s.setX (generate s.cfg.slotMap s.key s.sid s.pos)).respond 0)

/-- RDX idx (41_chacha.md R84). -/
def execRdx (idx : Nat) (s : State) : Host.Outcome State Fault Refusal :=
  .next (s.withIndex idx 16 fun i => s.respond s.x[i])

end Sys2Proof.Machine
end

