-- ==== Sys2Proof/Machine/System.lean ====
section
/-! DEFINITION. The system commands NOP, RDSR, SRST (40_system.md). -/

namespace Sys2Proof.Machine

/-- NOP (40_system.md R70): `respond(0)`. -/
def execNop (s : State) : Host.Outcome State Fault Refusal :=
  .next (s.respond 0)

/-- RDSR idx (40_system.md R71). -/
def execRdsr (idx : Nat) (s : State) : Host.Outcome State Fault Refusal :=
  .next (s.withIndex idx 4 fun i => s.respond (s.sysReg i))

/-- SRST (40_system.md R72): everything to the values of 10_state.md R23, then `respond(0)`. -/
def execSrst (s : State) : Host.Outcome State Fault Refusal :=
  .next (s.clear.respond 0)

end Sys2Proof.Machine
end

