-- ==== Sys2Proof/Machine/Dispatch.lean ====
section
/-! DEFINITION. One arm per command of the opcode map (30_encoding.md R54), each one direct call of its meaning. -/

namespace Sys2Proof.Machine

def exec (i : Instr) (s : State) : Host.Outcome State Fault Refusal :=
  match i with
  | .nop => Sys2Proof.Machine.execNop s
  | .rdsr idx => Sys2Proof.Machine.execRdsr idx s
  | .srst => Sys2Proof.Machine.execSrst s
  | .ldkey idx wd => Sys2Proof.Machine.execLdkey idx wd s
  | .ldsid idx wd => Sys2Proof.Machine.execLdsid idx wd s
  | .ldpos idx wd => Sys2Proof.Machine.execLdpos idx wd s
  | .gen => Sys2Proof.Machine.execGen s
  | .rdx idx => Sys2Proof.Machine.execRdx idx s
  | .iclr => Sys2Proof.Machine.execIclr s
  | .ipush data => Sys2Proof.Machine.execIpush data s
  | .enc => Sys2Proof.Machine.execEnc s
  | .dec => Sys2Proof.Machine.execDec s
  | .val => Sys2Proof.Machine.execVal s
  | .ord idx => Sys2Proof.Machine.execOrd idx s
  | .rdelut idx => Sys2Proof.Machine.execRdelut idx s
  | .rddlut idx => Sys2Proof.Machine.execRddlut idx s

end Sys2Proof.Machine
end

