-- ==== Sys2Proof/Machine/Transaction.lean ====
section
/-! DEFINITION. One transaction (00_scope.md R4): a command word and a write-data word are decoded and run, or answered with
IllegalCommand; and one host event (70_reset_and_hazards.md R160): a transaction or a reset. -/

namespace Sys2Proof.Machine

/-- The block's `step : State x Command -> State x Response` (00_scope.md R4): decode, then run; a word that matches no row
raises IllegalCommand with the command word as information (30_encoding.md R55, 60_exceptions.md R132). -/
def runCommand (cw wd : Word) (s : State) : Host.Outcome State Fault Refusal :=
  match decode cw wd with
  | some i => exec i s
  | none => .next (s.raise .illegalCommand cw)

/-- One host event.  A reset, also one that cuts a command, leaves the reset state and delivers no response
(70_reset_and_hazards.md R150, R159). -/
def runEvent (e : HostEvent) (s : State) : Host.Outcome State Fault Refusal :=
  match e with
  | .command cw wd => runCommand cw wd s
  | .reset => .next s.clear
  | .cutByReset _ _ => .next s.clear

/-- What one step of a run does: take the next host event; with none to come the block is idle and keeps all of its state
(60_exceptions.md R138, 70_reset_and_hazards.md R160; log 4). -/
def runNext (s : State) : Host.Outcome State Fault Refusal :=
  match s.pending with
  | [] => .next s
  | e :: rest => runEvent e { s with pending := rest }

/-- The host presents the command of a table word next (log 2). -/
def State.presentWord (s : State) (nbits w : Nat) : State :=
  { s with pending := .command (tableCommandWord nbits w) (tableWriteData nbits w) :: s.pending }

end Sys2Proof.Machine
end

