-- ==== Sys2Proof/Machine/Step.lean ====
section
/-! DEFINITION. The step of a run (70_reset_and_hazards.md R160), and the placing of one command as the next host event. -/

namespace Sys2Proof.Machine

/-- One step of a run: the next host event, if any (Machine/Transaction.lean). -/
def step (s : State) : Host.Outcome State Fault Refusal := runNext s

/-- `s` with the command of a table word as the next host event, before those already pending (log 2). -/
def State.withFetchWord (s : State) (nbits w : Nat) : State := s.presentWord nbits w

end Sys2Proof.Machine
end

