-- ==== Sys2Proof/Machine/Timing.lean ====
section
/-! DEFINITION. The latency of a command in clock cycles, as far as the spec fixes it: what it may depend on
(70_reset_and_hazards.md R157).  The numbers are the opaque constants of Config.lean.  Only the port layer reads this. -/

namespace Sys2Proof.Machine

/-- "at most linearly" in ILEN (70_reset_and_hazards.md R157): the open latency of ENC, DEC and VAL, cut at an open linear bound.
`offender` is the position of the first offending character, where the command may stop early. -/
def codecLatency (op : BitVec 8) (len : Nat) (offender : Option Nat) : Nat :=
  min (Config.tCodec op len offender) (Config.tSlope op * len + Config.tBase op)

/-- The lowest index whose character VAL finds invalid (42_base64.md R110). -/
def firstInvalid (t : List Byte) : Option Nat := t.findIdx? fun c => decide (charClass c = .invalid)

/-- What the latency of an IndexRange error may read of the state: OLEN for ORD, nothing else (70_reset_and_hazards.md R157). -/
def errorOlen (i : Instr) (s : State) : Nat :=
  match i with
  | .ord _ => s.olen
  | .nop | .rdsr _ | .srst | .ldkey _ _ | .ldsid _ _ | .ldpos _ _ | .gen | .rdx _ | .iclr | .ipush _ | .enc | .dec
  | .val | .rdelut _ | .rddlut _ => 0

/-- The latency of a command that passes its index check: by opcode and index, and for ENC, DEC and VAL by ILEN and the first
offending position (70_reset_and_hazards.md R157). -/
def commandLatency (i : Instr) (s : State) : Nat :=
  match i with
  | .enc => codecLatency (opcode i) s.ilen none
  | .dec => codecLatency (opcode i) s.ilen (firstOffender s.ibuf)
  | .val => codecLatency (opcode i) s.ilen (firstInvalid s.ibuf)
  | .nop | .rdsr _ | .srst | .ldkey _ _ | .ldsid _ _ | .ldpos _ _ | .gen | .rdx _ | .iclr | .ipush _ | .ord _
  | .rdelut _ | .rddlut _ => Config.tCommand (opcode i) (i.index?.getD 0)

/-- Cycles from the edge on which a command is accepted to the edge on which `rsp_valid` rises (70_reset_and_hazards.md R157). -/
def latency (cw wd : Word) (s : State) : Nat :=
  match decode cw wd with
  | none => Config.tError cw 0
  | some i => if s.indexOutOfRange i then Config.tError cw (errorOlen i s) else commandLatency i s

end Sys2Proof.Machine
end

