-- ==== Sys2Proof/Machine/Port.lean ====
section
/-! DEFINITION. The block at its signals (30_encoding.md R61, R62; 70_reset_and_hazards.md R150, R155, R159): one rising edge of
`clk` at a time, around the transactions of Machine/Transaction.lean.  A layer of its own: `step` does not use it (log 10, log 11). -/

namespace Sys2Proof.Machine

/-- What the host drives at one rising edge (30_encoding.md R61). -/
structure PortIn where
  rstN     : Bool
  cmdValid : Bool
  cmdWord  : Word
  cmdWdata : Word
  rspReady : Bool
  deriving DecidableEq, Repr

/-- What the block is doing at its ports: held in reset (R150); waiting a number of further edges before it is ready (`T_RESET`,
or after a delivery, R158); ready; executing an accepted command for a number of further edges; presenting the response of an
accepted command.  `done` is the state that the command leaves; nothing can observe it before the delivery (30_encoding.md R62). -/
inductive PortPhase where
  | held
  | waiting (edges : Nat)
  | ready
  | executing (cw wd : Word) (edges : Nat)
  | responding (cw wd : Word) (done : State)
  deriving DecidableEq, Repr

/-- The block between two rising edges: its state after the last delivered response, and the phase of its ports. -/
structure PortState where
  block : State
  phase : PortPhase
  deriving DecidableEq, Repr

/-- The block held in its first reset (70_reset_and_hazards.md R150, R155 (e)). -/
def PortState.reset : PortState := { block := State.reset, phase := .held }

/-- `cmd_ready` (30_encoding.md R62). -/
def PortState.cmdReady (p : PortState) : Bool :=
  match p.phase with
  | .ready => true
  | .held | .waiting _ | .executing _ _ _ | .responding _ _ _ => false

/-- `rsp_err` and `rsp_data` where `rsp_valid = 1`, nothing where it is 0 (70_reset_and_hazards.md R155 (d)). -/
def PortState.rsp? (p : PortState) : Option Response :=
  match p.phase with
  | .responding _ _ done => done.responses.getLast?
  | .held | .waiting _ | .ready | .executing _ _ _ => none

/-- `rsp_valid` (30_encoding.md R62). -/
def PortState.rspValid (p : PortState) : Bool :=
  match p.phase with
  | .responding _ _ _ => true
  | .held | .waiting _ | .ready | .executing _ _ _ => false

/-- The phase with `n` further edges to wait before `cmd_ready` rises. -/
def readyAfter (n : Nat) : PortPhase :=
  match n with
  | 0 => .ready
  | m + 1 => .waiting m

/-- The accepted command with `n` further edges to go before `rsp_valid` rises: at none, the transaction takes place. -/
def PortState.executeAfter (p : PortState) (cw wd : Word) (n : Nat) : Host.Outcome PortState Fault Refusal :=
  match n with
  | m + 1 => .next { p with phase := .executing cw wd m }
  | 0 =>
    match runCommand cw wd p.block with
    | .next t => .next { p with phase := .responding cw wd t }
    | .fault r => .fault r
    | .refused r => .refused r

/-- One rising edge of `clk`.  Reset wins over everything: the command in flight is abandoned and its response never delivered
(70_reset_and_hazards.md R150, R159).  A command is accepted where `cmd_valid` and `cmd_ready` are both 1, a response delivered
where `rsp_valid` and `rsp_ready` are both 1 (30_encoding.md R62).  DESIGN CHOICE (log 11): `cmd_ready`, once 1, stays 1 until a
command is accepted or reset comes; the spec says when it is 0 and that it rises, not that it stays. -/
def PortState.clock (i : PortIn) (p : PortState) : Host.Outcome PortState Fault Refusal :=
  if i.rstN = false then .next { block := p.block.clear, phase := .held }
  else
    match p.phase with
    | .held => .next { p with phase := readyAfter Config.tReset }
    | .waiting n => .next { p with phase := readyAfter n }
    | .ready =>
      if i.cmdValid = true then p.executeAfter i.cmdWord i.cmdWdata (latency i.cmdWord i.cmdWdata p.block) else .next p
    | .executing cw wd n => p.executeAfter cw wd n
    | .responding cw _ done =>
      if i.rspReady = true then .next { block := done, phase := readyAfter (Config.tRearm cw) } else .next p

/-- The rising edges of a list of inputs, in order. -/
def PortState.clocks (p : PortState) : List PortIn → Host.Outcome PortState Fault Refusal
  | [] => .next p
  | i :: rest =>
    match p.clock i with
    | .next q => q.clocks rest
    | .fault r => .fault r
    | .refused r => .refused r

end Sys2Proof.Machine
end

