-- ==== Sys2Proof/Safety.lean ====
section
/-! DEFINITION. The terms claims are made in: the invariant of a safe run, what a command leaves unchanged, what it delivers,
and the agreements between two runs. -/

namespace Sys2Proof.Machine

/-! ### Invariants -/

/-- The error codes the block produces (60_exceptions.md R130; code 1 is never raised, R140). -/
def producedCodes : List (BitVec 4) := [0, 2, 3, 8, 9, 10]

/-- The invariant of a run: the configuration is admissible (00_scope.md R5), the buffers are within their capacities
(10_state.md R18, R19), and every delivered response carries a code the block produces (60_exceptions.md R130). -/
abbrev State.Inv (s : State) : Prop :=
  s.cfg.wf ∧ Memory.wf s ∧ ∀ r ∈ s.responses, r.err ∈ producedCodes

/-- The invariant of the port layer: while a response is presented, the state to come is that of the accepted command; while
held in reset, the block is in its reset state. -/
abbrev PortState.Inv (p : PortState) : Prop :=
  match p.phase with
  | .held => p.block.clear = p.block
  | .responding cw wd done => runCommand cw wd p.block = .next done
  | .waiting _ | .ready | .executing _ _ _ => True

/-- The command `(cw, wd)` has been accepted and its response not yet delivered (30_encoding.md R62). -/
abbrev PortState.InFlight (p : PortState) (cw wd : Word) : Prop :=
  match p.phase with
  | .executing cw' wd' _ => cw' = cw ∧ wd' = wd
  | .responding cw' wd' _ => cw' = cw ∧ wd' = wd
  | .held | .waiting _ | .ready => False

/-! ### Frames -/

/-- Unit G is the same in both states (10_state.md R10). -/
abbrev SameUnitG (s t : State) : Prop := t.key = s.key ∧ t.sid = s.sid ∧ t.pos = s.pos ∧ t.x = s.x

/-- Unit B is the same in both states (10_state.md R10). -/
abbrev SameUnitB (s t : State) : Prop := t.ibuf = s.ibuf ∧ t.obuf = s.obuf

/-- The architectural state is the same in both states (10_state.md R25). -/
abbrev SameBlock (s t : State) : Prop := SameUnitG s t ∧ SameUnitB s t

/-- From `s` to `t` exactly the response `(err, data)` was delivered, and neither the configuration nor the host's coming
events changed (30_encoding.md R58). -/
abbrev Delivers (s t : State) (err : BitVec 4) (data : Word) : Prop :=
  t.responses = s.responses ++ [⟨err, data⟩] ∧ t.cfg = s.cfg ∧ t.pending = s.pending

/-- The architectural state of `t` is the reset state (10_state.md R23). -/
abbrev AtReset (t : State) : Prop :=
  (∀ j : Fin 8, t.key[j] = 0) ∧ (∀ j : Fin 2, t.sid[j] = 0) ∧ (∀ j : Fin 2, t.pos[j] = 0) ∧
    (∀ j : Fin 16, t.x[j] = 0) ∧ t.ibuf = [] ∧ t.obuf = []

/-! ### Encodings of one row (30_encoding.md R54, R55) -/

/-- The answer to an illegal command word: IllegalCommand with the word, and nothing changed (30_encoding.md R55). -/
def illegalAnswer (cw : Word) (s : State) : State := { s with responses := s.responses ++ [⟨8, cw⟩] }

/-- Every command word with opcode `op` runs `build wd` if its other 24 bits are zero, and is illegal otherwise (formats N, D). -/
abbrev PlainRow (op : BitVec 8) (build : Word → Instr) : Prop :=
  ∀ (cw wd : Word) (s : State), opField cw = op →
    runCommand cw wd s = if cw.toNat % 2 ^ 24 = 0 then exec (build wd) s else .next (illegalAnswer cw s)

/-- Every command word with opcode `op` runs `build idx wd` for `idx = cw[15:0]` if its bits [23:16] are zero, and is illegal
otherwise (formats I, ID). -/
abbrev IndexedRow (op : BitVec 8) (build : Nat → Word → Instr) : Prop :=
  ∀ (cw wd : Word) (s : State), opField cw = op →
    runCommand cw wd s =
      if cw.toNat / 2 ^ 16 % 2 ^ 8 = 0 then exec (build (cw.toNat % 2 ^ 16) wd) s else .next (illegalAnswer cw s)

/-- The command ends in IndexRange with `idx` and changes nothing (60_exceptions.md R131, R132, R134). -/
abbrev RaisesIndexRange (i : Instr) (idx : Nat) (s : State) : Prop :=
  ∃ t, exec i s = .next t ∧ Delivers s t 9 (BitVec.ofNat 32 idx) ∧ SameBlock s t

/-- The command answers `(0, data)` and changes nothing. -/
abbrev Reads (i : Instr) (s : State) (data : Word) : Prop :=
  ∃ t, exec i s = .next t ∧ Delivers s t 0 data ∧ SameBlock s t

/-- The unit of a command: the high nibble of its opcode, 0 system, 1 unit G, 2 unit B (30_encoding.md R54). -/
def unitOf (i : Instr) : BitVec 4 := (opcode i).extractLsb' 4 4

/-! ### Agreement of two runs -/

/-- The two states differ at most in KEY, SID and POS, which no command returns (10_state.md R11, R12, R13). -/
abbrev AgreeButOperands (s t : State) : Prop :=
  t.cfg = s.cfg ∧ t.x = s.x ∧ SameUnitB s t ∧ t.pending = s.pending ∧ t.responses = s.responses

/-- No event still to come is the command GEN, the only one that reads KEY, SID and POS (10_state.md R11). -/
abbrev NoGenPending (s : State) : Prop :=
  ∀ cw wd : Word, HostEvent.command cw wd ∈ s.pending → decode cw wd ≠ some .gen

/-- Character `t[i]` of a text of `n` characters is not accepted by step 2 of DECODE_CHECK (42_base64.md R108): its class is
invalid, or it is a pad that is neither the last character nor the last but one before a pad. -/
abbrev Offends (t : List Byte) (i : Nat) : Prop :=
  ∃ c, t[i]? = some c ∧
    (charClass c = .invalid ∨
      (charClass c = .pad ∧ i + 1 ≠ t.length ∧
        ¬ (i + 2 = t.length ∧ ∃ d, t[i + 1]? = some d ∧ charClass d = .pad)))

/-- `i` is the position of the first offending character, which DEC reports (42_base64.md R108). -/
abbrev FirstOffends (t : List Byte) (i : Nat) : Prop := Offends t i ∧ ∀ j, j < i → ¬ Offends t j

/-- Character `t[i]` has class invalid, which alone VAL looks at (42_base64.md R110). -/
abbrev InvalidAt (t : List Byte) (i : Nat) : Prop := ∃ c, t[i]? = some c ∧ charClass c = .invalid

/-- `i` is the position of the first invalid character. -/
abbrev FirstInvalidAt (t : List Byte) (i : Nat) : Prop := InvalidAt t i ∧ ∀ j, j < i → ¬ InvalidAt t j

/-- The number of `=` at the end of a text (42_base64.md R109). -/
def trailingPads (t : List Byte) : Nat := (t.reverse.takeWhile fun c => decide (c = padChar)).length

end Sys2Proof.Machine
end

