-- ==== Sys2Proof/Certificates/Slice0/Obligations.lean ====
section
/-! DEFINITION. The statements about setseed CORE, from the numbered rules of the spec.  Nothing is proved here. -/

open Sys2Proof Sys2Proof.Machine

/-! ### Encoding -/

/-- 30_encoding.md R54, R59: decoding an encoded well-formed command gives it back, every operand at every value. -/
def Obligations.DecodeOfEncodeIsSame : Prop :=
  ∀ i : Instr, i.wellFormed = true → decode (encode i).1 (encode i).2 = some i

/-- 30_encoding.md R54, R59: a command word that decodes is the encoding of what it decodes to, which is well formed; the
encoded write-data decodes alike. -/
def Obligations.EncodeOfDecodeIsSameWord : Prop :=
  ∀ (cw wd : Word) (i : Instr), decode cw wd = some i →
    i.wellFormed = true ∧ (encode i).1 = cw ∧ decode cw (encode i).2 = some i

/-- 30_encoding.md R54 ("Rows are disjoint."): sixteen rows, and no command word selects two of them. -/
def Obligations.OpcodeRowsDisjoint : Prop :=
  opcodeTable.length = 16 ∧
    ∀ (cw : Word) (r q : OpcodeRow), r ∈ opcodeTable → q ∈ opcodeTable →
      r.selects cw = true → q.selects cw = true → r.mnemonic = q.mnemonic

/-- The sixteen opcodes of 30_encoding.md R54, and those of formats N and D (30_encoding.md R52). -/
def opcodeNumbers : List Nat :=
  [0x00, 0x01, 0x02, 0x10, 0x11, 0x12, 0x13, 0x14, 0x20, 0x21, 0x22, 0x23, 0x24, 0x25, 0x26, 0x27]

/-- The opcodes of formats N and D (30_encoding.md R52). -/
def plainOpcodeNumbers : List Nat := [0x00, 0x02, 0x13, 0x20, 0x21, 0x22, 0x23, 0x24]

/-- The three cases of 30_encoding.md R55, on the bits of the command word. -/
abbrev IllegalWord (cw : Word) : Prop :=
  cw.toNat / 2 ^ 24 ∉ opcodeNumbers ∨ cw.toNat / 2 ^ 16 % 2 ^ 8 ≠ 0 ∨
    (cw.toNat / 2 ^ 24 ∈ plainOpcodeNumbers ∧ cw.toNat % 2 ^ 16 ≠ 0)

/-- 30_encoding.md R55: the three cases, and only they, are illegal; such a word raises IllegalCommand with the word and changes
no state; every other word runs a command, and one whose index is out of range raises IndexRange instead. -/
def Obligations.IllegalWordsAreThreeCases : Prop :=
  ∀ (cw wd : Word) (s : State) (rest : List HostEvent), s.pending = .command cw wd :: rest →
    (IllegalWord cw → step s = .next { s with pending := rest, responses := s.responses ++ [⟨8, cw⟩] }) ∧
    (¬ IllegalWord cw → ∃ i, decode cw wd = some i ∧
      (s.indexOutOfRange i = true → step s =
        .next { s with pending := rest, responses := s.responses ++ [⟨9, cw &&& 0x0000FFFF#32⟩] }))

/-- 30_encoding.md R53: the index is `cw[15:0]`; LDKEY, LDSID and LDPOS take all of `wd`; IPUSH takes `wd[7:0]`; every other
command ignores `wd`. -/
def Obligations.OperandsComeFromTheirFields : Prop :=
  ∀ (cw wd : Word) (i : Instr), decode cw wd = some i →
    (∀ n, i.index? = some n → n = cw.toNat % 2 ^ 16) ∧
    (∀ n w, i = .ldkey n w ∨ i = .ldsid n w ∨ i = .ldpos n w → w = wd) ∧
    (∀ b, i = .ipush b → b.toNat = wd.toNat % 2 ^ 8 ∧
      ∀ wd' : Word, wd'.toNat % 2 ^ 8 = wd.toNat % 2 ^ 8 → decode cw wd' = some i) ∧
    ((∀ n w, i ≠ .ldkey n w ∧ i ≠ .ldsid n w ∧ i ≠ .ldpos n w) → (∀ b, i ≠ .ipush b) →
      ∀ wd' : Word, decode cw wd' = some i)

/-- Words written out from 30_encoding.md R59 and the programs of 95_test_vectors.md decode to the commands they stand for. -/
def Obligations.SampleWordsDecode : Prop :=
  decode 0x10000003 0x0F0E0D0C = some (.ldkey 3 0x0F0E0D0C) ∧
  decode 0x13000000 0 = some .gen ∧
  decode 0x21000000 0x0000004D = some (.ipush 0x4D) ∧
  decode 0x25000002 0 = some (.ord 2) ∧
  decode 0x0100FFFF 0 = some (.rdsr 65535) ∧
  decode 0x14010010 0 = none ∧
  decode 0x13000001 0 = none

/-! ### Steps and runs -/

/-- 00_scope.md R4: a step takes the next host event off and, where it is a command word that decodes to a well-formed command, is
that command's `exec`; a word placed by `State.withFetchWord` is run next, and nothing but the placing changes; with no host event to
come a step keeps all of the state (60_exceptions.md R138, 70_reset_and_hazards.md R160).  A step adds nothing else around `exec`. -/
def Obligations.StepRunsDecodedCommand : Prop :=
  (∀ (cw wd : Word) (i : Instr) (s : State) (rest : List HostEvent),
    s.pending = .command cw wd :: rest → decode cw wd = some i → i.wellFormed = true →
      step s = exec i { s with pending := rest }) ∧
  (∀ (w : Nat) (i : Instr) (s : State), decodeTableWord 32 w = some i → step (s.withFetchWord 32 w) = exec i s) ∧
  ∀ s : State, s.pending = [] → step s = .next s

/-- 70_reset_and_hazards.md R150, R159: a reset, also one that cuts a command, leaves the reset state, delivers no response, and
the run continues with the events that follow. -/
def Obligations.ResetEventGivesResetState : Prop :=
  ∀ (s : State) (e : HostEvent) (rest : List HostEvent), s.pending = e :: rest →
    (e = .reset ∨ ∃ cw wd, e = .cutByReset cw wd) →
      ∃ t, step s = .next t ∧ AtReset t ∧ t.responses = s.responses ∧ t.pending = rest ∧ t.cfg = s.cfg

/-- 00_scope.md R4, 70_reset_and_hazards.md R158: every step of every state answers a next state; nothing stops the block. -/
def Obligations.EveryStepAnswers : Prop :=
  ∀ s : State, ∃ t, step s = .next t

/-- 30_encoding.md R50, 60_exceptions.md R130, R140: an accepted command produces exactly one response, with one of the codes 0,
2, 3, 8, 9, 10; codes 1, 4 to 7 and 11 to 15 never occur. -/
def Obligations.OneResponsePerCommand : Prop :=
  ∀ (s t : State) (cw wd : Word) (rest : List HostEvent),
    s.pending = .command cw wd :: rest → step s = .next t →
      t.pending = rest ∧ ∃ r : Response, t.responses = s.responses ++ [r] ∧
        (r.err = 0 ∨ r.err = 2 ∨ r.err = 3 ∨ r.err = 8 ∨ r.err = 9 ∨ r.err = 10)

/-- The bound of each index space, by opcode (60_exceptions.md R131); the bound of ORD is OLEN. -/
def indexBounds (olen : Nat) : List (Nat × Nat) :=
  [(0x01, 4), (0x10, 8), (0x11, 2), (0x12, 2), (0x14, 16), (0x25, olen), (0x26, 64), (0x27, 256)]

/-- 60_exceptions.md R130 to R133, on the bits of the command word: each error has exactly its condition and its information word,
and at most one is reported. -/
def Obligations.ErrorConditionsAndInformation : Prop :=
  ∀ (cw wd : Word) (s t : State) (r : Response), runCommand cw wd s = .next t → t.responses = s.responses ++ [r] →
    (r.err = 8 ↔ IllegalWord cw) ∧ (r.err = 8 → r.data = cw) ∧
    (r.err = 9 ↔ cw.toNat / 2 ^ 16 % 2 ^ 8 = 0 ∧
      ∃ p ∈ indexBounds s.obuf.length, p.1 = cw.toNat / 2 ^ 24 ∧ p.2 ≤ cw.toNat % 2 ^ 16) ∧
    (r.err = 9 → r.data.toNat = cw.toNat % 2 ^ 16) ∧
    (r.err = 10 ↔ cw = 0x21000000 ∧ s.ibuf.length = s.cfg.nb) ∧
    (r.err = 10 → r.data = BitVec.ofNat 32 s.ibuf.length) ∧
    (r.err = 2 ↔ cw = 0x23000000 ∧ s.ibuf.length % 4 ≠ 0) ∧
    (r.err = 2 → r.data = BitVec.ofNat 32 s.ibuf.length) ∧
    (r.err = 3 ↔ cw = 0x23000000 ∧ s.ibuf.length % 4 = 0 ∧ ∃ i, Offends s.ibuf i) ∧
    (r.err = 3 → ∀ i, Offends s.ibuf i → (∀ j, j < i → ¬ Offends s.ibuf j) → r.data = BitVec.ofNat 32 i) ∧
    (r.err = 0 ∨ r.err = 2 ∨ r.err = 3 ∨ r.err = 8 ∨ r.err = 9 ∨ r.err = 10)

/-- 60_exceptions.md R134: `step(s, c) = (s, (code, info))` for every failing command `c`: nothing but the response. -/
def Obligations.FailedCommandChangesNothing : Prop :=
  ∀ (s t : State) (cw wd : Word) (r : Response), runCommand cw wd s = .next t →
    t.responses = s.responses ++ [r] → r.err ≠ 0 → t = { s with responses := s.responses ++ [r] }

/-- 10_state.md R18, R19, 60_exceptions.md R130: every step keeps the invariant: the configuration admissible, ILEN <= NB,
OLEN <= OB, every delivered code one the block produces. -/
def Obligations.EveryStepKeepsInvariant : Prop :=
  ∀ s t : State, s.Inv → step s = .next t → t.Inv

/-- The invariant holds after reset, in every admissible configuration. -/
def Obligations.ResetMeetsInvariant : Prop :=
  State.reset.Inv ∧ ∀ c : Config, c.wf → (State.resetWith c).Inv

/-- 10_state.md R23: what a reset and SRST leave.  The two constants SR0 and SR1 read as 10_state.md R17 says at the defaults of
00_scope.md R5; that State.reset has the default configuration is the model's choice (log 1). -/
def Obligations.ResetStateValues : Prop :=
  AtReset State.reset ∧ State.reset.sysReg 2 = 0 ∧ State.reset.sysReg 3 = 0 ∧
    State.reset.sysReg 0 = 0x53530801 ∧ State.reset.sysReg 1 = 0x010000C0 ∧
    ∀ s : State, (∃ t, runEvent .reset s = .next t ∧ AtReset t ∧ t.cfg = s.cfg) ∧
      ∃ t, exec .srst s = .next t ∧ AtReset t ∧ t.cfg = s.cfg

/-- 10_state.md R24: a command writes nothing outside its row of the table; SRST writes the values of R23; one that ends in an error
writes nothing. -/
def Obligations.CommandsWriteOnlyTheirRow : Prop :=
  ∀ (i : Instr) (s t : State), exec i s = .next t →
    (∀ j : Fin 8, t.key[j] ≠ s.key[j] → i = .srst ∨ ∃ wd, i = .ldkey j wd) ∧
    (∀ j : Fin 2, t.sid[j] ≠ s.sid[j] → i = .srst ∨ ∃ wd, i = .ldsid j wd) ∧
    (∀ j : Fin 2, t.pos[j] ≠ s.pos[j] → i = .srst ∨ ∃ wd, i = .ldpos j wd) ∧
    (t.x ≠ s.x → i = .srst ∨ i = .gen) ∧
    (t.ibuf ≠ s.ibuf → i = .srst ∨ i = .iclr ∨ ∃ b, i = .ipush b ∧ t.ibuf = s.ibuf ++ [b]) ∧
    (t.obuf ≠ s.obuf → i = .srst ∨ i = .enc ∨ i = .dec) ∧
    (i = .srst → AtReset t) ∧
    (∀ r : Response, t.responses = s.responses ++ [r] → r.err ≠ 0 → SameBlock s t) ∧
    t.cfg = s.cfg ∧ t.pending = s.pending

/-- 00_scope.md R2: a command of unit G neither reads nor writes unit B, and a command of unit B neither reads nor writes unit G. -/
def Obligations.UnitsAreIndependent : Prop :=
  ∀ (i : Instr) (s s' t t' : State), s'.cfg = s.cfg → exec i s = .next t → exec i s' = .next t' →
    (unitOf i = 1 → SameUnitB s t ∧
      (SameUnitG s s' → SameUnitG t t' ∧
        ∃ r, t.responses = s.responses ++ [r] ∧ t'.responses = s'.responses ++ [r])) ∧
    (unitOf i = 2 → SameUnitG s t ∧
      (SameUnitB s s' → SameUnitB t t' ∧
        ∃ r, t.responses = s.responses ++ [r] ∧ t'.responses = s'.responses ++ [r]))

/-- 20_memory.md R38: the reads change no state, and repeating any command but IPUSH leaves the state as the first execution
left it. -/
def Obligations.RepeatingAddsNothing : Prop :=
  ∀ (i : Instr) (s t u : State), (∀ b, i ≠ .ipush b) → exec i s = .next t → exec i t = .next u →
    SameBlock t u ∧
    ((∃ n, i = .rdsr n ∨ i = .rdx n ∨ i = .ord n ∨ i = .rdelut n ∨ i = .rddlut n) ∨ i = .val →
      SameBlock s t ∧ ∃ r, t.responses = s.responses ++ [r] ∧ u.responses = t.responses ++ [r])

/-- 10_state.md R11, R12, R13: over any run whose events to come hold no GEN, two machines that differ in KEY, SID and POS alone
deliver the same responses and agree in everything else: no command returns a bit of an operand register. -/
def Obligations.OperandRegistersAreNotReturned : Prop :=
  ∀ (k : Nat) (s s' t t' : State), AgreeButOperands s s' → NoGenPending s →
    Sys2Proof.core.run k s = .next t → Sys2Proof.core.run k s' = .next t' → AgreeButOperands t t'

/-- 10_state.md R16, 60_exceptions.md R136: nothing of the past responses is remembered: whatever was delivered before, a run goes
on with the same state and the same new responses. -/
def Obligations.PastResponsesDoNotMatter : Prop :=
  ∀ (k : Nat) (s t : State) (past : List Response), Sys2Proof.core.run k s = .next t →
    ∃ fresh : List Response, t.responses = s.responses ++ fresh ∧
      Sys2Proof.core.run k { s with responses := past } = .next { t with responses := past ++ fresh }

/-- 20_memory.md R40: the effect of the first events does not depend on the later ones, which are then still to come. -/
def Obligations.EventsTakeEffectInOrder : Prop :=
  ∀ (first later : List HostEvent) (s : State),
    ∃ t, Sys2Proof.core.run first.length { s with pending := first } = .next t ∧ t.pending = [] ∧
      Sys2Proof.core.run first.length { s with pending := first ++ later } = .next { t with pending := later }

/-- 70_reset_and_hazards.md R152: the state after SRST is the state after a reset; they differ in the response alone. -/
def Obligations.SoftResetEqualsReset : Prop :=
  ∀ (s : State) (wd : Word) (rest : List HostEvent),
    ∃ t u, step { s with pending := .command 0x02000000 wd :: rest } = .next t ∧
      step { s with pending := .reset :: rest } = .next u ∧
      t = { u with responses := u.responses ++ [⟨0, 0⟩] }

/-! ### System commands -/

/-- 40_system.md R70. -/
def Obligations.NopEffect : Prop :=
  PlainRow 0x00 (fun _ => .nop) ∧ ∀ s : State, Reads .nop s 0

/-- 40_system.md R71. -/
def Obligations.RdsrEffect : Prop :=
  IndexedRow 0x01 (fun idx _ => .rdsr idx) ∧
  ∀ s : State,
    Reads (.rdsr 0) s s.cfg.idValue ∧
    Reads (.rdsr 1) s (BitVec.ofNat 16 s.cfg.ob ++ BitVec.ofNat 16 s.cfg.nb) ∧
    Reads (.rdsr 2) s (BitVec.ofNat 32 s.ibuf.length) ∧
    Reads (.rdsr 3) s (BitVec.ofNat 32 s.obuf.length) ∧
    ∀ idx, 4 ≤ idx → RaisesIndexRange (.rdsr idx) idx s

/-- 40_system.md R72. -/
def Obligations.SrstEffect : Prop :=
  PlainRow 0x02 (fun _ => .srst) ∧
  ∀ s : State, ∃ t, exec .srst s = .next t ∧ Delivers s t 0 0 ∧ AtReset t

/-! ### Unit G -/

/-- 41_chacha.md R80. -/
def Obligations.LdkeyEffect : Prop :=
  IndexedRow 0x10 (fun idx wd => .ldkey idx wd) ∧
  ∀ (s : State) (idx : Nat) (wd : Word),
    (idx < 8 → ∃ t, exec (.ldkey idx wd) s = .next t ∧ Delivers s t 0 0 ∧
      (∀ j : Fin 8, t.key[j] = if j.val = idx then wd else s.key[j]) ∧
      t.sid = s.sid ∧ t.pos = s.pos ∧ t.x = s.x ∧ SameUnitB s t) ∧
    (8 ≤ idx → RaisesIndexRange (.ldkey idx wd) idx s)

/-- 41_chacha.md R81, R82: the halves of the stream identifier and of the block position. -/
def Obligations.LdsidAndLdposEffect : Prop :=
  IndexedRow 0x11 (fun idx wd => .ldsid idx wd) ∧ IndexedRow 0x12 (fun idx wd => .ldpos idx wd) ∧
  ∀ (s : State) (idx : Nat) (wd : Word),
    (idx < 2 → ∃ t, exec (.ldsid idx wd) s = .next t ∧ Delivers s t 0 0 ∧
      (∀ j : Fin 2, t.sid[j] = if j.val = idx then wd else s.sid[j]) ∧
      t.key = s.key ∧ t.pos = s.pos ∧ t.x = s.x ∧ SameUnitB s t) ∧
    (idx < 2 → ∃ t, exec (.ldpos idx wd) s = .next t ∧ Delivers s t 0 0 ∧
      (∀ j : Fin 2, t.pos[j] = if j.val = idx then wd else s.pos[j]) ∧
      t.key = s.key ∧ t.sid = s.sid ∧ t.x = s.x ∧ SameUnitB s t) ∧
    (2 ≤ idx → RaisesIndexRange (.ldsid idx wd) idx s ∧ RaisesIndexRange (.ldpos idx wd) idx s)

/-- 41_chacha.md R83, with R92: X[i] is the mixed word plus the initial word, and nothing else changes. -/
def Obligations.GenEffect : Prop :=
  PlainRow 0x13 (fun _ => .gen) ∧
  ∀ s : State, ∃ t, exec .gen s = .next t ∧ Delivers s t 0 0 ∧
    (∀ j : Fin 16, t.x[j] =
      (perm8 (initState s.cfg.slotMap s.key s.sid s.pos))[j] + (initState s.cfg.slotMap s.key s.sid s.pos)[j]) ∧
    t.key = s.key ∧ t.sid = s.sid ∧ t.pos = s.pos ∧ SameUnitB s t

/-- 41_chacha.md R84. -/
def Obligations.RdxEffect : Prop :=
  IndexedRow 0x14 (fun idx _ => .rdx idx) ∧
  ∀ s : State, (∀ j : Fin 16, Reads (.rdx j) s s.x[j]) ∧ ∀ idx, 16 ≤ idx → RaisesIndexRange (.rdx idx) idx s

/-- 41_chacha.md R83 (example), 95_test_vectors.md G0: GEN on the reset state, in either layout, leaves no zero word, word 0
0x2FEF003E and word 15 0x42FE0C0E. -/
def Obligations.GenOnResetState : Prop :=
  ∀ m : SlotMap, ∃ t, exec .gen (State.resetWith { Config.default with slotMap := m }) = .next t ∧
    t.x[0] = 0x2FEF003E ∧ t.x[15] = 0x42FE0C0E ∧ ∀ j : Fin 16, t.x[j] ≠ 0

/-- 41_chacha.md R85: rotl32 is the circular left shift, bit by bit, for the amounts it is defined for; addition is modulo 2^32. -/
def Obligations.WordArithmetic : Prop :=
  (∀ (v : Word) (n i : Nat), 0 < n → n < 32 → i < 32 →
    (rotl32 v n).getLsbD i = v.getLsbD ((i + 32 - n) % 32)) ∧
  (∀ a b : Word, (add32 a b).toNat = (a.toNat + b.toNat) % 2 ^ 32) ∧
  (∀ (a b : Word) (i : Nat), (xor32 a b).getLsbD i = (a.getLsbD i != b.getLsbD i))

/-- 41_chacha.md R86: QR at (i, j, k, l) gives those four words the quarter-round's results in that order and leaves the other
twelve unchanged; QR itself is the twelve steps, with the library's rotation; it is a bijection, fixes zero, and gives the worked
example. -/
def Obligations.QuarterRound : Prop :=
  (∀ a b c d a₁ b₁ c₁ d₁ a₂ b₂ c₂ d₂ : Word,
    a₁ = a + b → d₁ = (d ^^^ a₁).rotateLeft 16 → c₁ = c + d₁ → b₁ = (b ^^^ c₁).rotateLeft 12 →
    a₂ = a₁ + b₁ → d₂ = (d₁ ^^^ a₂).rotateLeft 8 → c₂ = c₁ + d₂ → b₂ = (b₁ ^^^ c₂).rotateLeft 7 →
      qr a b c d = (a₂, b₂, c₂, d₂)) ∧
  (∀ (i j k l : Fin 16) (x : Vector Word 16), [i, j, k, l].Nodup →
    ((qrAt i j k l x)[i], (qrAt i j k l x)[j], (qrAt i j k l x)[k], (qrAt i j k l x)[l]) = qr x[i] x[j] x[k] x[l] ∧
    ∀ m : Fin 16, m ∉ [i, j, k, l] → (qrAt i j k l x)[m] = x[m]) ∧
  Function.Bijective (fun w : Word × Word × Word × Word => qr w.1 w.2.1 w.2.2.1 w.2.2.2) ∧
  qr 0 0 0 0 = (0, 0, 0, 0) ∧
  qr 0x11111111 0x01020304 0x9B8D6F43 0x01234567 = (0xEA2A92F4, 0xCB1CF8CE, 0x4581472E, 0x5881C4BB)

/-- Word at row `r` and column `c` of the 4x4 matrix view (41_chacha.md R88). -/
def matrixWord (x : Vector Word 16) (r c : Nat) : Word := x.toArray.getD (4 * r + c % 4) 0

/-- 41_chacha.md R88, R89, in the matrix view: column c of COLROUND(x) is QR of column c of x, and the wrapped diagonal c of
DIAGROUND(x) is QR of the wrapped diagonal c of x, rows 0 to 3 in order; quarter-rounds on disjoint words commute, so the order of
the four does not count. -/
def Obligations.RoundsOfTheMatrixView : Prop :=
  (∀ (i j k l i' j' k' l' : Fin 16) (x : Vector Word 16), [i, j, k, l, i', j', k', l'].Nodup →
    qrAt i j k l (qrAt i' j' k' l' x) = qrAt i' j' k' l' (qrAt i j k l x)) ∧
  ∀ (x : Vector Word 16) (c : Nat), c < 4 →
    (matrixWord (colRound x) 0 c, matrixWord (colRound x) 1 c, matrixWord (colRound x) 2 c, matrixWord (colRound x) 3 c) =
      qr (matrixWord x 0 c) (matrixWord x 1 c) (matrixWord x 2 c) (matrixWord x 3 c) ∧
    (matrixWord (diagRound x) 0 c, matrixWord (diagRound x) 1 (c + 1), matrixWord (diagRound x) 2 (c + 2),
      matrixWord (diagRound x) 3 (c + 3)) =
      qr (matrixWord x 0 c) (matrixWord x 1 (c + 1)) (matrixWord x 2 (c + 2)) (matrixWord x 3 (c + 3))

/-- 41_chacha.md R91: PERM8 is four double-rounds, a column round then a diagonal round each (R90), and is a bijection on the
512-bit state. -/
def Obligations.PermutationIsBijective : Prop :=
  (∀ x, perm8 x = (fun y => diagRound (colRound y))^[4] x) ∧ Function.Bijective perm8

/-- 41_chacha.md R87, 20_memory.md R34: the slot of each word, in both layouts. -/
def Obligations.InitialStateSlots : Prop :=
  ∀ (m : SlotMap) (key : Vector Word 8) (sid pos : Vector Word 2),
    (initState m key sid pos)[0] = 0x61707865 ∧ (initState m key sid pos)[1] = 0x3320646E ∧
    (initState m key sid pos)[2] = 0x79622D32 ∧ (initState m key sid pos)[3] = 0x6B206574 ∧
    (∀ j : Fin 8, (initState m key sid pos)[4 + j.val] = key[j]) ∧
    (∀ j : Fin 2, (initState m key sid pos)[12 + j.val] = match m with | .sidFirst => sid[j] | .posFirst => pos[j]) ∧
    (∀ j : Fin 2, (initState m key sid pos)[14 + j.val] = match m with | .sidFirst => pos[j] | .posFirst => sid[j])

/-- 41_chacha.md R94: INIT is injective in each layout. -/
def Obligations.InitialStateIsInjective : Prop :=
  ∀ (m : SlotMap) (key key' : Vector Word 8) (sid sid' pos pos' : Vector Word 2),
    initState m key sid pos = initState m key' sid' pos' → key = key' ∧ sid = sid' ∧ pos = pos'

/-- 95_test_vectors.md, remarks on the G vectors (41_chacha.md R87, R93): SLOT_MAP exchanges the roles of the two operand pairs and
nothing else; and with all operands zero, words 4 .. 15 of the output are those of PERM8. -/
def Obligations.SlotMapExchangesOperands : Prop :=
  (∀ (key : Vector Word 8) (a b : Vector Word 2), generate .sidFirst key a b = generate .posFirst key b a) ∧
  ∀ (m : SlotMap) (j : Fin 16), 4 ≤ j.val →
    (generate m (Vector.replicate 8 0) (Vector.replicate 2 0) (Vector.replicate 2 0))[j] =
      (perm8 (initState m (Vector.replicate 8 0) (Vector.replicate 2 0) (Vector.replicate 2 0)))[j]

/-! ### Unit B: tables -/

/-- 42_base64.md R100, R101: ELUT in its listing; DLUT is its inverse, plus the padding character, and 0 elsewhere. -/
def Obligations.TablesAreInverse : Prop :=
  (∀ v : BitVec 6, v.toNat ≤ 25 → (elut v).toNat = 0x41 + v.toNat) ∧
  (∀ v : BitVec 6, 26 ≤ v.toNat → v.toNat ≤ 51 → (elut v).toNat = 0x61 + (v.toNat - 26)) ∧
  (∀ v : BitVec 6, 52 ≤ v.toNat → v.toNat ≤ 61 → (elut v).toNat = 0x30 + (v.toNat - 52)) ∧
  elut 62 = 0x2B ∧ elut 63 = 0x2F ∧
  (∀ v : BitVec 6, dlut (elut v) = 0x40#8 ||| v.setWidth 8) ∧
  dlut 0x3D = 0x80 ∧
  ∀ c : Byte, c ≠ 0x3D → (∀ v : BitVec 6, elut v ≠ c) → dlut c = 0x00

/-- 42_base64.md R102: the classes are those of DLUT: data iff an alphabet character, with its sextet as value; pad iff `=`;
invalid otherwise; an entry of DLUT is the class, then the value. -/
def Obligations.CharacterClasses : Prop :=
  ∀ c : Byte,
    (charClass c = .data ↔ ∃ v : BitVec 6, elut v = c) ∧ (charClass c = .pad ↔ c = 0x3D) ∧
    (charClass c = .invalid ↔ c ≠ 0x3D ∧ ∀ v : BitVec 6, elut v ≠ c) ∧
    (∀ v : BitVec 6, elut v = c → sextet c = v) ∧ sextet 0x3D = 0 ∧
    dlut c = (match charClass c with | .invalid => 0b00#2 | .data => 0b01#2 | .pad => 0b10#2) ++ sextet c

/-! ### Unit B: functions -/

/-- 42_base64.md R106: ENCODE by index: the characters of every full group, then those of the group of one or two leftover bytes,
and the length. -/
def Obligations.EncodeByIndex : Prop :=
  ∀ b : List Byte,
    (b64Encode b).length = 4 * ((b.length + 2) / 3) ∧
    (∀ (g : Nat) (x y z : Byte), b[3 * g]? = some x → b[3 * g + 1]? = some y → b[3 * g + 2]? = some z →
      ∀ v : BitVec 24, v = (x ++ y) ++ z →
        (b64Encode b)[4 * g]? = some (elut (v.extractLsb' 18 6)) ∧
        (b64Encode b)[4 * g + 1]? = some (elut (v.extractLsb' 12 6)) ∧
        (b64Encode b)[4 * g + 2]? = some (elut (v.extractLsb' 6 6)) ∧
        (b64Encode b)[4 * g + 3]? = some (elut (v.extractLsb' 0 6))) ∧
    (∀ (g : Nat) (x : Byte), b.length = 3 * g + 1 → b[3 * g]? = some x →
      ∀ v : BitVec 24, v = (x ++ (0 : Byte)) ++ (0 : Byte) →
        (b64Encode b)[4 * g]? = some (elut (v.extractLsb' 18 6)) ∧
        (b64Encode b)[4 * g + 1]? = some (elut (v.extractLsb' 12 6)) ∧
        (b64Encode b)[4 * g + 2]? = some 0x3D ∧ (b64Encode b)[4 * g + 3]? = some 0x3D) ∧
    (∀ (g : Nat) (x y : Byte), b.length = 3 * g + 2 → b[3 * g]? = some x → b[3 * g + 1]? = some y →
      ∀ v : BitVec 24, v = (x ++ y) ++ (0 : Byte) →
        (b64Encode b)[4 * g]? = some (elut (v.extractLsb' 18 6)) ∧
        (b64Encode b)[4 * g + 1]? = some (elut (v.extractLsb' 12 6)) ∧
        (b64Encode b)[4 * g + 2]? = some (elut (v.extractLsb' 6 6)) ∧ (b64Encode b)[4 * g + 3]? = some 0x3D)

/-- 42_base64.md R108: the length first; then the lowest offending index; OK exactly where neither fails, that is for "the only
shapes that pass": data characters and then no, one or two `=`. -/
def Obligations.DecodeCheckReportsFirstFault : Prop :=
  ∀ t : List Byte,
    (∀ n, decodeCheck t = .badLength n ↔ t.length % 4 ≠ 0 ∧ n = t.length) ∧
    (∀ i, decodeCheck t = .badCharacter i ↔ t.length % 4 = 0 ∧ Offends t i ∧ ∀ j, j < i → ¬ Offends t j) ∧
    (decodeCheck t = .ok ↔ t.length % 4 = 0 ∧ ∀ j, ¬ Offends t j) ∧
    (decodeCheck t = .ok ↔ t.length % 4 = 0 ∧ ∃ (d : List Byte) (p : Nat), p ≤ 2 ∧ t = d ++ List.replicate p 0x3D ∧
      ∀ c ∈ d, charClass c = .data)

/-- 42_base64.md R109: DECODE by index, its length, and the discarded bits that are not checked ("TR==" as "TQ=="). -/
def Obligations.DecodeByIndex : Prop :=
  (∀ t : List Byte, decodeCheck t = .ok →
    (b64Decode t).length = 3 * (t.length / 4) - trailingPads t ∧
    ∀ (q : Nat) (a b c d : Byte), t[4 * q]? = some a → t[4 * q + 1]? = some b → t[4 * q + 2]? = some c →
      t[4 * q + 3]? = some d →
      ∀ (v : BitVec 24) (k : Nat), v = ((sextet a ++ sextet b) ++ sextet c) ++ sextet d →
        k = ([a, b, c, d].filter fun e => decide (e = 0x3D)).length →
        (b64Decode t)[3 * q]? = some (v.extractLsb' 16 8) ∧
        (k ≤ 1 → (b64Decode t)[3 * q + 1]? = some (v.extractLsb' 8 8)) ∧
        (k = 0 → (b64Decode t)[3 * q + 2]? = some (v.extractLsb' 0 8))) ∧
  decodeCheck [0x54, 0x52, 0x3D, 0x3D] = .ok ∧ b64Decode [0x54, 0x52, 0x3D, 0x3D] = [0x4D] ∧
  b64Decode [0x54, 0x51, 0x3D, 0x3D] = [0x4D]

/-- 42_base64.md R114: the round trip for every byte string; its converse fails for some accepted text. -/
def Obligations.DecodeOfB64EncodeIsSame : Prop :=
  (∀ b : List Byte, decodeCheck (b64Encode b) = .ok ∧ b64Decode (b64Encode b) = b) ∧
  ∃ t : List Byte, decodeCheck t = .ok ∧ b64Encode (b64Decode t) ≠ t

/-- 42_base64.md R116: VAL applied to an encoder output answers 1. -/
def Obligations.EncoderOutputIsValid : Prop :=
  ∀ b : List Byte, (∀ c ∈ b64Encode b, charClass c = .data ∨ charClass c = .pad) ∧
    ∀ s : State, s.ibuf = b64Encode b → Reads .val s 1

/-- 00_scope.md R6: neither ENC nor DEC can overflow OBUF, and every index of OBUF fits 16 bits. -/
def Obligations.OutputNeverOverflows : Prop :=
  ∀ c : Config, c.wf →
    c.ob = 4 * ⌈(c.nb : ℚ) / 3⌉₊ ∧ c.ob ≤ 65532 ∧ c.nb ≤ c.ob ∧
    (∀ b : List Byte, b.length ≤ c.nb → (b64Encode b).length ≤ c.ob) ∧
    ∀ t : List Byte, t.length ≤ c.nb → 4 * (b64Decode t).length ≤ 3 * t.length ∧ (b64Decode t).length ≤ c.ob

/-! ### Unit B: commands -/

/-- 42_base64.md R103, R104: clearing and appending to the input buffer. -/
def Obligations.InputBufferEffect : Prop :=
  PlainRow 0x20 (fun _ => .iclr) ∧ PlainRow 0x21 (fun wd => .ipush (wd.setWidth 8)) ∧
  ∀ (s : State) (b : Byte),
    (∃ t, exec .iclr s = .next t ∧ Delivers s t 0 0 ∧ t.ibuf = [] ∧ t.obuf = s.obuf ∧ SameUnitG s t) ∧
    (s.ibuf.length ≠ s.cfg.nb → ∃ t, exec (.ipush b) s = .next t ∧ Delivers s t 0 0 ∧
      t.ibuf = s.ibuf ++ [b] ∧ t.obuf = s.obuf ∧ SameUnitG s t) ∧
    (s.ibuf.length = s.cfg.nb → ∃ t, exec (.ipush b) s = .next t ∧
      Delivers s t 10 (BitVec.ofNat 32 s.cfg.nb) ∧ SameBlock s t)

/-- 42_base64.md R105. -/
def Obligations.EncEffect : Prop :=
  PlainRow 0x22 (fun _ => .enc) ∧
  ∀ s : State, ∃ t, exec .enc s = .next t ∧ t.obuf = b64Encode s.ibuf ∧
    Delivers s t 0 (BitVec.ofNat 32 t.obuf.length) ∧ t.ibuf = s.ibuf ∧ SameUnitG s t

/-- 42_base64.md R107. -/
def Obligations.DecEffect : Prop :=
  PlainRow 0x23 (fun _ => .dec) ∧
  ∀ s : State,
    (∀ n, decodeCheck s.ibuf = .badLength n → ∃ t, exec .dec s = .next t ∧
      Delivers s t 2 (BitVec.ofNat 32 s.ibuf.length) ∧ SameBlock s t) ∧
    (∀ i, decodeCheck s.ibuf = .badCharacter i → ∃ t, exec .dec s = .next t ∧
      Delivers s t 3 (BitVec.ofNat 32 i) ∧ SameBlock s t) ∧
    (decodeCheck s.ibuf = .ok → ∃ t, exec .dec s = .next t ∧ t.obuf = b64Decode s.ibuf ∧
      Delivers s t 0 (BitVec.ofNat 32 t.obuf.length) ∧ t.ibuf = s.ibuf ∧ SameUnitG s t)

/-- 42_base64.md R110, with its last remark: DEC succeeding implies VAL answers 1. -/
def Obligations.ValEffect : Prop :=
  PlainRow 0x24 (fun _ => .val) ∧
  ∀ s : State,
    ((∀ c ∈ s.ibuf, charClass c ≠ .invalid) → Reads .val s 1) ∧
    ((∃ c ∈ s.ibuf, charClass c = .invalid) → Reads .val s 0) ∧
    (decodeCheck s.ibuf = .ok → Reads .val s 1)

/-- 42_base64.md R111. -/
def Obligations.OrdEffect : Prop :=
  IndexedRow 0x25 (fun idx _ => .ord idx) ∧
  ∀ (s : State) (idx : Nat),
    (∀ b, s.obuf[idx]? = some b → Reads (.ord idx) s (BitVec.ofNat 32 b.toNat)) ∧
    (s.obuf.length ≤ idx → RaisesIndexRange (.ord idx) idx s)

/-- 42_base64.md R112, R113: the reads of the two tables. -/
def Obligations.TableReadEffect : Prop :=
  IndexedRow 0x26 (fun idx _ => .rdelut idx) ∧ IndexedRow 0x27 (fun idx _ => .rddlut idx) ∧
  ∀ s : State,
    (∀ v : BitVec 6, Reads (.rdelut v.toNat) s (BitVec.ofNat 32 (elut v).toNat)) ∧
    (∀ idx, 64 ≤ idx → RaisesIndexRange (.rdelut idx) idx s) ∧
    (∀ c : Byte, Reads (.rddlut c.toNat) s (BitVec.ofNat 32 (dlut c).toNat) ∧ (charClass c ≠ .invalid ↔ dlut c ≠ 0)) ∧
    ∀ idx, 256 ≤ idx → RaisesIndexRange (.rddlut idx) idx s

/-! ### The document's contracts as command sequences -/

/-- 30_encoding.md R50: `encode(bytes)` is ICLR, one IPUSH per byte, ENC, one ORD per output character.  From every state, for
every byte string that fits IBUF, the responses are OK for the pushes, the length, and then the characters. -/
def Obligations.EncodeContract : Prop :=
  ∀ (s : State) (b : List Byte), s.cfg.wf → b.length ≤ s.cfg.nb →
    ∃ t, Sys2Proof.core.run (2 + b.length + (b64Encode b).length)
        { s with pending :=
          .command 0x20000000 0 :: b.map (fun c => .command 0x21000000 (c.setWidth 32)) ++
            .command 0x22000000 0 ::
            (List.range (b64Encode b).length).map (fun k => .command (0x25000000#32 ||| BitVec.ofNat 32 k) 0) } = .next t ∧
      t.pending = [] ∧ t.ibuf = b ∧ t.obuf = b64Encode b ∧
      t.responses = s.responses ++ List.replicate (1 + b.length) ⟨0, 0⟩ ++
        ⟨0, BitVec.ofNat 32 (b64Encode b).length⟩ :: (b64Encode b).map (fun c => ⟨0, c.setWidth 32⟩)

/-- 30_encoding.md R50: `generate(key, stream_id, pos)` is eight LDKEY, two LDSID, two LDPOS, one GEN, sixteen RDX.  From every
state the last sixteen responses are the words of the block of those operands. -/
def Obligations.GenerateContract : Prop :=
  ∀ (s : State) (key : Vector Word 8) (sid pos : Vector Word 2),
    ∃ t, Sys2Proof.core.run 29
        { s with pending :=
          (List.finRange 8).map (fun j => .command (0x10000000#32 ||| BitVec.ofNat 32 j) key[j]) ++
          (List.finRange 2).map (fun j => .command (0x11000000#32 ||| BitVec.ofNat 32 j) sid[j]) ++
          (List.finRange 2).map (fun j => .command (0x12000000#32 ||| BitVec.ofNat 32 j) pos[j]) ++
          [.command 0x13000000 0] ++
          (List.range 16).map (fun j => .command (0x14000000#32 ||| BitVec.ofNat 32 j) 0) } = .next t ∧
      t.pending = [] ∧ t.key = key ∧ t.sid = sid ∧ t.pos = pos ∧ SameUnitB s t ∧
      t.responses = s.responses ++ List.replicate 13 ⟨0, 0⟩ ++
        (generate s.cfg.slotMap key sid pos).toList.map (fun w => ⟨0, w⟩)

/-! ### Signals and timing -/

/-- 70_reset_and_hazards.md R157, over the model's latency function (log 10): which values each latency may depend on.  Only ENC,
DEC and VAL look at the state: all at ILEN, at most linearly, DEC and VAL also at the position of the first offending character and
no later one.  No operand word counts, of any command, in any outcome.  An illegal word or an index error looks at the command
word, and at OLEN for ORD. -/
def Obligations.LatencyDependence : Prop :=
  (∀ (i : Instr) (s t : State), i ≠ .enc → i ≠ .dec → i ≠ .val → commandLatency i s = commandLatency i t) ∧
  (∀ (n : Nat) (w w' : Word) (b b' : Byte) (s : State),
    commandLatency (.ldkey n w) s = commandLatency (.ldkey n w') s ∧
    commandLatency (.ldsid n w) s = commandLatency (.ldsid n w') s ∧
    commandLatency (.ldpos n w) s = commandLatency (.ldpos n w') s ∧
    commandLatency (.ipush b) s = commandLatency (.ipush b') s) ∧
  (∀ (cw wd wd' : Word) (s : State), latency cw wd s = latency cw wd' s) ∧
  (∀ s t : State, t.ibuf.length = s.ibuf.length →
    commandLatency .enc s = commandLatency .enc t ∧
    ((∀ j, FirstOffends s.ibuf j ↔ FirstOffends t.ibuf j) → commandLatency .dec s = commandLatency .dec t) ∧
    ((∀ j, FirstInvalidAt s.ibuf j ↔ FirstInvalidAt t.ibuf j) → commandLatency .val s = commandLatency .val t)) ∧
  (∃ a b : Nat, ∀ s : State, commandLatency .enc s ≤ a * s.ibuf.length + b ∧
    commandLatency .dec s ≤ a * s.ibuf.length + b ∧ commandLatency .val s ≤ a * s.ibuf.length + b) ∧
  (∀ (cw wd wd' : Word) (s t : State), decode cw wd = none → latency cw wd s = latency cw wd' t) ∧
  ∀ (cw wd wd' : Word) (i : Instr) (s t : State), decode cw wd = some i →
    s.indexOutOfRange i = true → t.indexOutOfRange i = true → (∀ n, i = .ord n → s.obuf.length = t.obuf.length) →
      latency cw wd s = latency cw wd' t

/-- 30_encoding.md R62, in the port layer (log 10, log 11): `cmd_ready = 1` in phase ready alone.  From the edge that accepts a
command, every edge without reset that does not deliver its response leaves that command in flight and `cmd_ready = 0`; while
`cmd_ready = 0` the command inputs do not count; a presented response is stable until it is accepted. -/
def Obligations.PortHoldsOneCommand : Prop :=
  (∀ p : PortState,
    (p.cmdReady = true ↔ p.phase = .ready) ∧
    (∀ cw wd, p.InFlight cw wd → p.cmdReady = false) ∧
    (p.rspValid = true → p.cmdReady = false) ∧
    ∀ i j : PortIn, p.cmdReady = false → i.rstN = j.rstN → i.rspReady = j.rspReady → p.clock i = p.clock j) ∧
  (∀ (p q : PortState) (i : PortIn), p.clock i = .next q → i.rstN = true →
    (p.phase = .ready → i.cmdValid = true → q.InFlight i.cmdWord i.cmdWdata ∧ q.cmdReady = false) ∧
    ∀ cw wd, p.InFlight cw wd → ¬ (p.rspValid = true ∧ i.rspReady = true) → q.InFlight cw wd ∧ q.cmdReady = false) ∧
  ∀ (p : PortState) (is : List PortIn), p.rspValid = true → (∀ i ∈ is, i.rstN = true ∧ i.rspReady = false) →
    p.clocks is = .next p

/-- 70_reset_and_hazards.md R150, R159, in the port layer (log 10, log 11): an edge with `rst_n = 0` abandons the command in flight:
the block is in its reset state and held there, no response is delivered, `cmd_ready` and `rsp_valid` are 0; and however many edges
follow, with or without reset, no response appears and nothing changes the block while the host presents no new command. -/
def Obligations.PortResetAbandonsCommand : Prop :=
  ∀ (p : PortState) (i : PortIn), i.rstN = false →
    ∃ q, p.clock i = .next q ∧ q.phase = .held ∧ AtReset q.block ∧ q.block.responses = p.block.responses ∧
      q.block.cfg = p.block.cfg ∧ q.cmdReady = false ∧ q.rspValid = false ∧
      ∀ is : List PortIn, (∀ j ∈ is, j.cmdValid = false) →
        ∃ r, q.clocks is = .next r ∧ r.rspValid = false ∧ r.block = q.block

/-- 30_encoding.md R62, in the port layer (log 10, log 11): it refines `step`.  From a state meeting the port invariant every edge
meets it again; an edge with `rst_n = 0` resets the block; any other edge that delivers a response moves the block by exactly the
transaction of the accepted command, which appends the response that was presented; every other edge leaves the block as it is. -/
def Obligations.PortRefinesTransactions : Prop :=
  ∀ (p : PortState) (i : PortIn), p.Inv →
    ∃ q, p.clock i = .next q ∧ q.Inv ∧
      (i.rstN = false → q.block = p.block.clear) ∧
      (i.rstN = true → p.rspValid = true → i.rspReady = true →
        ∃ cw wd done, p.phase = .responding cw wd done ∧ q.block = done ∧
          step { p.block with pending := .command cw wd :: p.block.pending } = .next q.block ∧
          ∃ r, p.rsp? = some r ∧ q.block.responses = p.block.responses ++ [r]) ∧
      (i.rstN = true → ¬ (p.rspValid = true ∧ i.rspReady = true) → q.block = p.block)

/-- 70_reset_and_hazards.md R158, R157: an accepted command is presented with its response exactly `latency` edges later, however the
host drives the other signals, unless reset intervenes. -/
def Obligations.PortAnswersWithinLatency : Prop :=
  ∀ (p : PortState) (i : PortIn) (is : List PortIn), p.phase = .ready → i.rstN = true → i.cmdValid = true →
    (∀ j ∈ is, j.rstN = true) → is.length = latency i.cmdWord i.cmdWdata p.block →
      ∃ q done, p.clocks (i :: is) = .next q ∧ q.block = p.block ∧
        q.phase = .responding i.cmdWord i.cmdWdata done ∧ runCommand i.cmdWord i.cmdWdata p.block = .next done

/-! ### Determinism -/

/-- 00_scope.md R3 (determinism, as 41_chacha.md R96 asks of a model): the block GEN leaves depends on KEY, SID, POS and SLOT_MAP
alone, and the response and result of ENC, DEC and VAL on the bytes of IBUF alone, whatever else differs in the two states: the
rest of the configuration, the other registers and buffers, the responses so far. -/
def Obligations.ResultsDependOnInputsAlone : Prop :=
  ∀ s s' : State,
    (s'.cfg.slotMap = s.cfg.slotMap → s'.key = s.key → s'.sid = s.sid → s'.pos = s.pos →
      ∃ t t', exec .gen s = .next t ∧ exec .gen s' = .next t' ∧ t'.x = t.x) ∧
    (s'.ibuf = s.ibuf → ∀ i : Instr, i = .enc ∨ i = .dec ∨ i = .val →
      ∃ t t' r, exec i s = .next t ∧ exec i s' = .next t' ∧
        t.responses = s.responses ++ [r] ∧ t'.responses = s'.responses ++ [r] ∧
        (i ≠ .val → r.err = 0 → t'.obuf = t.obuf))
end

