-- ==== Sys2Proof/Laws/Base64.lean ====
section
/-! SUPPORT. Small lemmas about the functions of unit B: the recursion equations, and lengths. -/

namespace Sys2Proof.Machine

@[simp] theorem b64Encode_nil : b64Encode [] = [] := by unfold b64Encode; rfl

theorem b64Encode_one (a : Byte) : b64Encode [a] =
    [sextetChar (groupBits a 0 0) 18, sextetChar (groupBits a 0 0) 12, padChar, padChar] := by unfold b64Encode; rfl

theorem b64Encode_two (a b : Byte) : b64Encode [a, b] =
    [sextetChar (groupBits a b 0) 18, sextetChar (groupBits a b 0) 12, sextetChar (groupBits a b 0) 6, padChar] := by
  unfold b64Encode; rfl

theorem b64Encode_group (a b c : Byte) (rest : List Byte) : b64Encode (a :: b :: c :: rest) =
    [sextetChar (groupBits a b c) 18, sextetChar (groupBits a b c) 12, sextetChar (groupBits a b c) 6,
      sextetChar (groupBits a b c) 0] ++ b64Encode rest := by rw [b64Encode]

@[simp] theorem b64Decode_nil : b64Decode [] = [] := by unfold b64Decode; rfl

theorem b64Decode_quantum (a b c d : Byte) (rest : List Byte) :
    b64Decode (a :: b :: c :: d :: rest) = decodeQuantum a b c d ++ b64Decode rest := by rw [b64Decode]

/-- A quantum gives at least one and at most three bytes. -/
theorem decodeQuantum_length (a b c d : Byte) :
    1 ≤ (decodeQuantum a b c d).length ∧ (decodeQuantum a b c d).length ≤ 3 := by
  simp only [decodeQuantum]
  split <;> split <;> simp

/-- Induction over a byte string three bytes at a time, as ENCODE takes it. -/
theorem threes_induction {P : List Byte → Prop} (nil : P []) (one : ∀ a, P [a]) (two : ∀ a b, P [a, b])
    (group : ∀ a b c rest, P rest → P (a :: b :: c :: rest)) : ∀ b, P b
  | [] => nil
  | [a] => one a
  | [a, b] => two a b
  | a :: b :: c :: rest => group a b c rest (threes_induction nil one two group rest)

/-- Induction over a text four characters at a time, as DECODE takes it. -/
theorem fours_induction {P : List Byte → Prop} (short : ∀ t, t.length < 4 → P t)
    (quantum : ∀ a b c d rest, P rest → P (a :: b :: c :: d :: rest)) : ∀ t, P t
  | [] => short [] (by simp)
  | [a] => short [a] (by simp)
  | [a, b] => short [a, b] (by simp)
  | [a, b, c] => short [a, b, c] (by simp)
  | a :: b :: c :: d :: rest => quantum a b c d rest (fours_induction short quantum rest)

end Sys2Proof.Machine
end

