-- ==== Sys2Proof/Laws/Chacha.lean ====
section
/-! SUPPORT. Small lemmas about the functions of unit G. -/

namespace Sys2Proof.Machine

/-- The quarter-round at four places, word by word: the last place named wins, other words stay. -/
theorem qrAt_getElem (i j k l : Fin 16) (x : Vector Word 16) (m : Nat) (h : m < 16) :
    (qrAt i j k l x)[m] =
      if m = l.val then (qr x[i] x[j] x[k] x[l]).2.2.2
      else if m = k.val then (qr x[i] x[j] x[k] x[l]).2.2.1
      else if m = j.val then (qr x[i] x[j] x[k] x[l]).2.1
      else if m = i.val then (qr x[i] x[j] x[k] x[l]).1
      else x[m] := by
  simp only [qrAt, Fin.getElem_fin, Vector.getElem_set, @eq_comm _ m]

/-- A word outside the four places is unchanged. -/
theorem qrAt_getElem_of_ne {i j k l : Fin 16} (x : Vector Word 16) {m : Nat} (h : m < 16)
    (hi : m ≠ i.val) (hj : m ≠ j.val) (hk : m ≠ k.val) (hl : m ≠ l.val) : (qrAt i j k l x)[m] = x[m] := by
  rw [qrAt_getElem, if_neg hl, if_neg hk, if_neg hj, if_neg hi]

/-- The feed-forward, word by word. -/
theorem feedForward_getElem (m s : Vector Word 16) (j : Nat) (h : j < 16) : (feedForward m s)[j] = m[j] + s[j] := by
  simp only [feedForward, Vector.getElem_zipWith, add32]

/-- The output block, word by word. -/
theorem generate_getElem (m : SlotMap) (key : Vector Word 8) (sid pos : Vector Word 2) (j : Nat) (h : j < 16) :
    (generate m key sid pos)[j] = (perm8 (initState m key sid pos))[j] + (initState m key sid pos)[j] :=
  feedForward_getElem _ _ j h

end Sys2Proof.Machine
end

