-- ==== Sys2Proof/Laws/Decode.lean ====
section
/-! SUPPORT. The fields of a command word as numbers, and the decoder as one chain of comparisons on the command word's number:
the form in which proofs about decoding use it. -/

namespace Sys2Proof

theorem opField_toNat (cw : Word) : (opField cw).toNat = cw.toNat / 2 ^ 24 := by
  have := cw.isLt
  simp only [opField, BitVec.extractLsb'_toNat, Nat.shiftRight_eq_div_pow]
  omega

theorem rsvField_toNat (cw : Word) : (rsvField cw).toNat = cw.toNat / 2 ^ 16 % 2 ^ 8 := by
  simp only [rsvField, BitVec.extractLsb'_toNat, Nat.shiftRight_eq_div_pow]

theorem indexOf_eq (cw : Word) : indexOf cw = cw.toNat % 2 ^ 16 := by
  simp only [indexOf, idxField, BitVec.extractLsb'_toNat, Nat.shiftRight_eq_div_pow, Nat.pow_zero, Nat.div_one]

theorem dataByte_eq (wd : Word) : dataByte wd = wd.setWidth 8 := by
  apply BitVec.eq_of_toNat_eq
  simp [dataByte, BitVec.extractLsb'_toNat]

/-- The word built from an opcode and an index, as a number. -/
theorem commandWord_toNat (op : BitVec 8) (idx : BitVec 16) :
    (commandWord op idx).toNat = op.toNat * 2 ^ 24 + idx.toNat := by
  have hi := idx.isLt
  have hsmall : ((0x00 : BitVec 8) ++ idx).toNat = idx.toNat := by
    rw [BitVec.toNat_append, ← Nat.shiftLeft_add_eq_or_of_lt hi]
    simp
  have hlt : idx.toNat < 2 ^ 24 := by omega
  simp only [commandWord]
  rw [BitVec.toNat_append, hsmall, ← Nat.shiftLeft_add_eq_or_of_lt hlt, Nat.shiftLeft_eq]

theorem opField_commandWord (op : BitVec 8) (idx : BitVec 16) : opField (commandWord op idx) = op := by
  apply BitVec.eq_of_toNat_eq
  rw [opField_toNat, commandWord_toNat]
  have := idx.isLt
  omega

theorem rsvField_commandWord (op : BitVec 8) (idx : BitVec 16) : rsvField (commandWord op idx) = 0 := by
  apply BitVec.eq_of_toNat_eq
  rw [rsvField_toNat, commandWord_toNat]
  have := idx.isLt
  change _ = 0
  omega

theorem indexOf_commandWord (op : BitVec 8) (idx : BitVec 16) : indexOf (commandWord op idx) = idx.toNat := by
  rw [indexOf_eq, commandWord_toNat]
  have := idx.isLt
  omega

/-- The mask of formats I and ID keeps the upper half of the word. -/
theorem and_upperHalf_toNat (cw : Word) : (cw &&& (0xFFFF0000 : Word)).toNat = cw.toNat / 2 ^ 16 * 2 ^ 16 := by
  have e : cw &&& (0xFFFF0000 : Word) = (cw >>> 16) <<< 16 := by
    apply BitVec.eq_of_getLsbD_eq
    intro i hi
    interval_cases i <;> simp
  have := cw.isLt
  rw [e, BitVec.toNat_shiftLeft, BitVec.toNat_ushiftRight, Nat.shiftRight_eq_div_pow, Nat.shiftLeft_eq]
  omega

/-- A row of format N or D selects its one word. -/
theorem selects_plain (cw m : Word) (name : String) (f : Format) (b : Nat → Word → Instr) :
    (OpcodeRow.selects ⟨name, f, m, 0xFFFFFFFF, b⟩ cw = true) = (cw.toNat = m.toNat) := by
  have e : cw &&& (0xFFFFFFFF : Word) = cw := BitVec.and_allOnes
  simp only [OpcodeRow.selects, e, beq_iff_eq, eq_iff_iff]
  exact ⟨congrArg _, BitVec.eq_of_toNat_eq⟩

/-- A row of format I or ID selects the words with its upper half. -/
theorem selects_indexed (cw m : Word) (name : String) (f : Format) (b : Nat → Word → Instr) :
    (OpcodeRow.selects ⟨name, f, m, 0xFFFF0000, b⟩ cw = true) = (cw.toNat / 2 ^ 16 * 2 ^ 16 = m.toNat) := by
  have h := and_upperHalf_toNat cw
  simp only [OpcodeRow.selects, beq_iff_eq, eq_iff_iff]
  constructor
  · intro e
    rw [← h, e]
  · intro e
    exact BitVec.eq_of_toNat_eq (h.trans e)

/-- The first row of a table is tried first. -/
theorem find_cons {α : Type} (r : OpcodeRow) (rows : List OpcodeRow) (cw : Word) (f : OpcodeRow → α) :
    ((r :: rows).find? (·.selects cw)).map f =
      if r.selects cw = true then some (f r) else (rows.find? (·.selects cw)).map f := by
  rw [List.find?_cons]
  cases r.selects cw <;> rfl

/-- The decoder on the number of the command word. -/
theorem decode_eq (cw wd : Word) : decode cw wd =
    if cw.toNat = 0x00000000 then some .nop
    else if cw.toNat / 2 ^ 16 * 2 ^ 16 = 0x01000000 then some (.rdsr (cw.toNat % 2 ^ 16))
    else if cw.toNat = 0x02000000 then some .srst
    else if cw.toNat / 2 ^ 16 * 2 ^ 16 = 0x10000000 then some (.ldkey (cw.toNat % 2 ^ 16) wd)
    else if cw.toNat / 2 ^ 16 * 2 ^ 16 = 0x11000000 then some (.ldsid (cw.toNat % 2 ^ 16) wd)
    else if cw.toNat / 2 ^ 16 * 2 ^ 16 = 0x12000000 then some (.ldpos (cw.toNat % 2 ^ 16) wd)
    else if cw.toNat = 0x13000000 then some .gen
    else if cw.toNat / 2 ^ 16 * 2 ^ 16 = 0x14000000 then some (.rdx (cw.toNat % 2 ^ 16))
    else if cw.toNat = 0x20000000 then some .iclr
    else if cw.toNat = 0x21000000 then some (.ipush (wd.setWidth 8))
    else if cw.toNat = 0x22000000 then some .enc
    else if cw.toNat = 0x23000000 then some .dec
    else if cw.toNat = 0x24000000 then some .val
    else if cw.toNat / 2 ^ 16 * 2 ^ 16 = 0x25000000 then some (.ord (cw.toNat % 2 ^ 16))
    else if cw.toNat / 2 ^ 16 * 2 ^ 16 = 0x26000000 then some (.rdelut (cw.toNat % 2 ^ 16))
    else if cw.toNat / 2 ^ 16 * 2 ^ 16 = 0x27000000 then some (.rddlut (cw.toNat % 2 ^ 16))
    else none := by
  unfold decode opcodeTable systemRows unitGRows unitBRows
  simp only [List.cons_append, List.nil_append, find_cons, selects_plain, selects_indexed, List.find?_nil,
    Option.map_none]
  rw [indexOf_eq, dataByte_eq]
  rfl

/-! ### One lemma per row -/

variable {cw : Word} (wd : Word)

theorem decode_nop (h : cw.toNat = 0x00000000) : decode cw wd = some .nop := by
  rw [decode_eq, if_pos h]

theorem decode_rdsr (h : cw.toNat / 2 ^ 16 * 2 ^ 16 = 0x01000000) : decode cw wd = some (.rdsr (cw.toNat % 2 ^ 16)) := by
  rw [decode_eq]
  repeat rw [if_neg (by omega)]
  rw [if_pos h]

theorem decode_srst (h : cw.toNat = 0x02000000) : decode cw wd = some .srst := by
  rw [decode_eq]
  repeat rw [if_neg (by omega)]
  rw [if_pos h]

theorem decode_ldkey (h : cw.toNat / 2 ^ 16 * 2 ^ 16 = 0x10000000) : decode cw wd = some (.ldkey (cw.toNat % 2 ^ 16) wd) := by
  rw [decode_eq]
  repeat rw [if_neg (by omega)]
  rw [if_pos h]

theorem decode_ldsid (h : cw.toNat / 2 ^ 16 * 2 ^ 16 = 0x11000000) : decode cw wd = some (.ldsid (cw.toNat % 2 ^ 16) wd) := by
  rw [decode_eq]
  repeat rw [if_neg (by omega)]
  rw [if_pos h]

theorem decode_ldpos (h : cw.toNat / 2 ^ 16 * 2 ^ 16 = 0x12000000) : decode cw wd = some (.ldpos (cw.toNat % 2 ^ 16) wd) := by
  rw [decode_eq]
  repeat rw [if_neg (by omega)]
  rw [if_pos h]

theorem decode_gen (h : cw.toNat = 0x13000000) : decode cw wd = some .gen := by
  rw [decode_eq]
  repeat rw [if_neg (by omega)]
  rw [if_pos h]

theorem decode_rdx (h : cw.toNat / 2 ^ 16 * 2 ^ 16 = 0x14000000) : decode cw wd = some (.rdx (cw.toNat % 2 ^ 16)) := by
  rw [decode_eq]
  repeat rw [if_neg (by omega)]
  rw [if_pos h]

theorem decode_iclr (h : cw.toNat = 0x20000000) : decode cw wd = some .iclr := by
  rw [decode_eq]
  repeat rw [if_neg (by omega)]
  rw [if_pos h]

theorem decode_ipush (h : cw.toNat = 0x21000000) : decode cw wd = some (.ipush (wd.setWidth 8)) := by
  rw [decode_eq]
  repeat rw [if_neg (by omega)]
  rw [if_pos h]

theorem decode_enc (h : cw.toNat = 0x22000000) : decode cw wd = some .enc := by
  rw [decode_eq]
  repeat rw [if_neg (by omega)]
  rw [if_pos h]

theorem decode_dec (h : cw.toNat = 0x23000000) : decode cw wd = some .dec := by
  rw [decode_eq]
  repeat rw [if_neg (by omega)]
  rw [if_pos h]

theorem decode_val (h : cw.toNat = 0x24000000) : decode cw wd = some .val := by
  rw [decode_eq]
  repeat rw [if_neg (by omega)]
  rw [if_pos h]

theorem decode_ord (h : cw.toNat / 2 ^ 16 * 2 ^ 16 = 0x25000000) : decode cw wd = some (.ord (cw.toNat % 2 ^ 16)) := by
  rw [decode_eq]
  repeat rw [if_neg (by omega)]
  rw [if_pos h]

theorem decode_rdelut (h : cw.toNat / 2 ^ 16 * 2 ^ 16 = 0x26000000) : decode cw wd = some (.rdelut (cw.toNat % 2 ^ 16)) := by
  rw [decode_eq]
  repeat rw [if_neg (by omega)]
  rw [if_pos h]

theorem decode_rddlut (h : cw.toNat / 2 ^ 16 * 2 ^ 16 = 0x27000000) : decode cw wd = some (.rddlut (cw.toNat % 2 ^ 16)) := by
  rw [decode_eq]
  repeat rw [if_neg (by omega)]
  rw [if_pos h]

/-- Everything a command word can decode to: one of the sixteen rows, with the operands from their fields. -/
theorem decode_cases {i : Instr} (h : decode cw wd = some i) :
    (cw.toNat = 0x00000000 ∧ i = .nop) ∨
    (cw.toNat / 2 ^ 16 * 2 ^ 16 = 0x01000000 ∧ i = .rdsr (cw.toNat % 2 ^ 16)) ∨
    (cw.toNat = 0x02000000 ∧ i = .srst) ∨
    (cw.toNat / 2 ^ 16 * 2 ^ 16 = 0x10000000 ∧ i = .ldkey (cw.toNat % 2 ^ 16) wd) ∨
    (cw.toNat / 2 ^ 16 * 2 ^ 16 = 0x11000000 ∧ i = .ldsid (cw.toNat % 2 ^ 16) wd) ∨
    (cw.toNat / 2 ^ 16 * 2 ^ 16 = 0x12000000 ∧ i = .ldpos (cw.toNat % 2 ^ 16) wd) ∨
    (cw.toNat = 0x13000000 ∧ i = .gen) ∨
    (cw.toNat / 2 ^ 16 * 2 ^ 16 = 0x14000000 ∧ i = .rdx (cw.toNat % 2 ^ 16)) ∨
    (cw.toNat = 0x20000000 ∧ i = .iclr) ∨
    (cw.toNat = 0x21000000 ∧ i = .ipush (wd.setWidth 8)) ∨
    (cw.toNat = 0x22000000 ∧ i = .enc) ∨
    (cw.toNat = 0x23000000 ∧ i = .dec) ∨
    (cw.toNat = 0x24000000 ∧ i = .val) ∨
    (cw.toNat / 2 ^ 16 * 2 ^ 16 = 0x25000000 ∧ i = .ord (cw.toNat % 2 ^ 16)) ∨
    (cw.toNat / 2 ^ 16 * 2 ^ 16 = 0x26000000 ∧ i = .rdelut (cw.toNat % 2 ^ 16)) ∨
    (cw.toNat / 2 ^ 16 * 2 ^ 16 = 0x27000000 ∧ i = .rddlut (cw.toNat % 2 ^ 16)) := by
  by_cases h0 : cw.toNat = 0x00000000
  · exact .inl ⟨h0, (Option.some.inj ((decode_nop wd h0).symm.trans h)).symm⟩
  refine .inr ?_
  by_cases h1 : cw.toNat / 2 ^ 16 * 2 ^ 16 = 0x01000000
  · exact .inl ⟨h1, (Option.some.inj ((decode_rdsr wd h1).symm.trans h)).symm⟩
  refine .inr ?_
  by_cases h2 : cw.toNat = 0x02000000
  · exact .inl ⟨h2, (Option.some.inj ((decode_srst wd h2).symm.trans h)).symm⟩
  refine .inr ?_
  by_cases h3 : cw.toNat / 2 ^ 16 * 2 ^ 16 = 0x10000000
  · exact .inl ⟨h3, (Option.some.inj ((decode_ldkey wd h3).symm.trans h)).symm⟩
  refine .inr ?_
  by_cases h4 : cw.toNat / 2 ^ 16 * 2 ^ 16 = 0x11000000
  · exact .inl ⟨h4, (Option.some.inj ((decode_ldsid wd h4).symm.trans h)).symm⟩
  refine .inr ?_
  by_cases h5 : cw.toNat / 2 ^ 16 * 2 ^ 16 = 0x12000000
  · exact .inl ⟨h5, (Option.some.inj ((decode_ldpos wd h5).symm.trans h)).symm⟩
  refine .inr ?_
  by_cases h6 : cw.toNat = 0x13000000
  · exact .inl ⟨h6, (Option.some.inj ((decode_gen wd h6).symm.trans h)).symm⟩
  refine .inr ?_
  by_cases h7 : cw.toNat / 2 ^ 16 * 2 ^ 16 = 0x14000000
  · exact .inl ⟨h7, (Option.some.inj ((decode_rdx wd h7).symm.trans h)).symm⟩
  refine .inr ?_
  by_cases h8 : cw.toNat = 0x20000000
  · exact .inl ⟨h8, (Option.some.inj ((decode_iclr wd h8).symm.trans h)).symm⟩
  refine .inr ?_
  by_cases h9 : cw.toNat = 0x21000000
  · exact .inl ⟨h9, (Option.some.inj ((decode_ipush wd h9).symm.trans h)).symm⟩
  refine .inr ?_
  by_cases h10 : cw.toNat = 0x22000000
  · exact .inl ⟨h10, (Option.some.inj ((decode_enc wd h10).symm.trans h)).symm⟩
  refine .inr ?_
  by_cases h11 : cw.toNat = 0x23000000
  · exact .inl ⟨h11, (Option.some.inj ((decode_dec wd h11).symm.trans h)).symm⟩
  refine .inr ?_
  by_cases h12 : cw.toNat = 0x24000000
  · exact .inl ⟨h12, (Option.some.inj ((decode_val wd h12).symm.trans h)).symm⟩
  refine .inr ?_
  by_cases h13 : cw.toNat / 2 ^ 16 * 2 ^ 16 = 0x25000000
  · exact .inl ⟨h13, (Option.some.inj ((decode_ord wd h13).symm.trans h)).symm⟩
  refine .inr ?_
  by_cases h14 : cw.toNat / 2 ^ 16 * 2 ^ 16 = 0x26000000
  · exact .inl ⟨h14, (Option.some.inj ((decode_rdelut wd h14).symm.trans h)).symm⟩
  refine .inr ?_
  by_cases h15 : cw.toNat / 2 ^ 16 * 2 ^ 16 = 0x27000000
  · exact ⟨h15, (Option.some.inj ((decode_rddlut wd h15).symm.trans h)).symm⟩
  rw [decode_eq, if_neg h0, if_neg h1, if_neg h2, if_neg h3, if_neg h4, if_neg h5, if_neg h6, if_neg h7, if_neg h8, if_neg h9, if_neg h10, if_neg h11, if_neg h12, if_neg h13, if_neg h14, if_neg h15] at h
  cases h

/-- A word of the form of no row decodes to nothing. -/
theorem decode_none
    (h0 : ¬ cw.toNat = 0x00000000)
    (h1 : ¬ cw.toNat / 2 ^ 16 * 2 ^ 16 = 0x01000000)
    (h2 : ¬ cw.toNat = 0x02000000)
    (h3 : ¬ cw.toNat / 2 ^ 16 * 2 ^ 16 = 0x10000000)
    (h4 : ¬ cw.toNat / 2 ^ 16 * 2 ^ 16 = 0x11000000)
    (h5 : ¬ cw.toNat / 2 ^ 16 * 2 ^ 16 = 0x12000000)
    (h6 : ¬ cw.toNat = 0x13000000)
    (h7 : ¬ cw.toNat / 2 ^ 16 * 2 ^ 16 = 0x14000000)
    (h8 : ¬ cw.toNat = 0x20000000)
    (h9 : ¬ cw.toNat = 0x21000000)
    (h10 : ¬ cw.toNat = 0x22000000)
    (h11 : ¬ cw.toNat = 0x23000000)
    (h12 : ¬ cw.toNat = 0x24000000)
    (h13 : ¬ cw.toNat / 2 ^ 16 * 2 ^ 16 = 0x25000000)
    (h14 : ¬ cw.toNat / 2 ^ 16 * 2 ^ 16 = 0x26000000)
    (h15 : ¬ cw.toNat / 2 ^ 16 * 2 ^ 16 = 0x27000000) :
    decode cw wd = none := by
  rw [decode_eq, if_neg h0, if_neg h1, if_neg h2, if_neg h3, if_neg h4, if_neg h5, if_neg h6, if_neg h7, if_neg h8, if_neg h9, if_neg h10, if_neg h11, if_neg h12, if_neg h13, if_neg h14, if_neg h15]

end Sys2Proof
end

