-- ==== Sys2Proof/Laws/State.lean ====
section
/-! SUPPORT. One lemma per field per update of the state, so that no later proof unfolds a record update. -/

namespace Sys2Proof.Machine

variable (s : State)

@[simp] theorem State.respond_cfg (v : Word) : (s.respond v).cfg = s.cfg := rfl
@[simp] theorem State.respond_key (v : Word) : (s.respond v).key = s.key := rfl
@[simp] theorem State.respond_sid (v : Word) : (s.respond v).sid = s.sid := rfl
@[simp] theorem State.respond_pos (v : Word) : (s.respond v).pos = s.pos := rfl
@[simp] theorem State.respond_x (v : Word) : (s.respond v).x = s.x := rfl
@[simp] theorem State.respond_ibuf (v : Word) : (s.respond v).ibuf = s.ibuf := rfl
@[simp] theorem State.respond_obuf (v : Word) : (s.respond v).obuf = s.obuf := rfl
@[simp] theorem State.respond_pending (v : Word) : (s.respond v).pending = s.pending := rfl
@[simp] theorem State.respond_responses (v : Word) : (s.respond v).responses = s.responses ++ [⟨Err.ok.code, v⟩] := rfl

@[simp] theorem State.raise_cfg (e : Err) (info : Word) : (s.raise e info).cfg = s.cfg := rfl
@[simp] theorem State.raise_key (e : Err) (info : Word) : (s.raise e info).key = s.key := rfl
@[simp] theorem State.raise_sid (e : Err) (info : Word) : (s.raise e info).sid = s.sid := rfl
@[simp] theorem State.raise_pos (e : Err) (info : Word) : (s.raise e info).pos = s.pos := rfl
@[simp] theorem State.raise_x (e : Err) (info : Word) : (s.raise e info).x = s.x := rfl
@[simp] theorem State.raise_ibuf (e : Err) (info : Word) : (s.raise e info).ibuf = s.ibuf := rfl
@[simp] theorem State.raise_obuf (e : Err) (info : Word) : (s.raise e info).obuf = s.obuf := rfl
@[simp] theorem State.raise_pending (e : Err) (info : Word) : (s.raise e info).pending = s.pending := rfl
@[simp] theorem State.raise_responses (e : Err) (info : Word) : (s.raise e info).responses = s.responses ++ [⟨e.code, info⟩] := rfl

@[simp] theorem State.clear_cfg : (s.clear).cfg = s.cfg := rfl
@[simp] theorem State.clear_key : (s.clear).key = Vector.replicate 8 0 := rfl
@[simp] theorem State.clear_sid : (s.clear).sid = Vector.replicate 2 0 := rfl
@[simp] theorem State.clear_pos : (s.clear).pos = Vector.replicate 2 0 := rfl
@[simp] theorem State.clear_x : (s.clear).x = Vector.replicate 16 0 := rfl
@[simp] theorem State.clear_ibuf : (s.clear).ibuf = [] := rfl
@[simp] theorem State.clear_obuf : (s.clear).obuf = [] := rfl
@[simp] theorem State.clear_pending : (s.clear).pending = s.pending := rfl
@[simp] theorem State.clear_responses : (s.clear).responses = s.responses := rfl

@[simp] theorem State.setKey_cfg (i : Fin 8) (w : Word) : (s.setKey i w).cfg = s.cfg := rfl
@[simp] theorem State.setKey_key (i : Fin 8) (w : Word) : (s.setKey i w).key = s.key.set i w := rfl
@[simp] theorem State.setKey_sid (i : Fin 8) (w : Word) : (s.setKey i w).sid = s.sid := rfl
@[simp] theorem State.setKey_pos (i : Fin 8) (w : Word) : (s.setKey i w).pos = s.pos := rfl
@[simp] theorem State.setKey_x (i : Fin 8) (w : Word) : (s.setKey i w).x = s.x := rfl
@[simp] theorem State.setKey_ibuf (i : Fin 8) (w : Word) : (s.setKey i w).ibuf = s.ibuf := rfl
@[simp] theorem State.setKey_obuf (i : Fin 8) (w : Word) : (s.setKey i w).obuf = s.obuf := rfl
@[simp] theorem State.setKey_pending (i : Fin 8) (w : Word) : (s.setKey i w).pending = s.pending := rfl
@[simp] theorem State.setKey_responses (i : Fin 8) (w : Word) : (s.setKey i w).responses = s.responses := rfl

@[simp] theorem State.setSid_cfg (i : Fin 2) (w : Word) : (s.setSid i w).cfg = s.cfg := rfl
@[simp] theorem State.setSid_key (i : Fin 2) (w : Word) : (s.setSid i w).key = s.key := rfl
@[simp] theorem State.setSid_sid (i : Fin 2) (w : Word) : (s.setSid i w).sid = s.sid.set i w := rfl
@[simp] theorem State.setSid_pos (i : Fin 2) (w : Word) : (s.setSid i w).pos = s.pos := rfl
@[simp] theorem State.setSid_x (i : Fin 2) (w : Word) : (s.setSid i w).x = s.x := rfl
@[simp] theorem State.setSid_ibuf (i : Fin 2) (w : Word) : (s.setSid i w).ibuf = s.ibuf := rfl
@[simp] theorem State.setSid_obuf (i : Fin 2) (w : Word) : (s.setSid i w).obuf = s.obuf := rfl
@[simp] theorem State.setSid_pending (i : Fin 2) (w : Word) : (s.setSid i w).pending = s.pending := rfl
@[simp] theorem State.setSid_responses (i : Fin 2) (w : Word) : (s.setSid i w).responses = s.responses := rfl

@[simp] theorem State.setPos_cfg (i : Fin 2) (w : Word) : (s.setPos i w).cfg = s.cfg := rfl
@[simp] theorem State.setPos_key (i : Fin 2) (w : Word) : (s.setPos i w).key = s.key := rfl
@[simp] theorem State.setPos_sid (i : Fin 2) (w : Word) : (s.setPos i w).sid = s.sid := rfl
@[simp] theorem State.setPos_pos (i : Fin 2) (w : Word) : (s.setPos i w).pos = s.pos.set i w := rfl
@[simp] theorem State.setPos_x (i : Fin 2) (w : Word) : (s.setPos i w).x = s.x := rfl
@[simp] theorem State.setPos_ibuf (i : Fin 2) (w : Word) : (s.setPos i w).ibuf = s.ibuf := rfl
@[simp] theorem State.setPos_obuf (i : Fin 2) (w : Word) : (s.setPos i w).obuf = s.obuf := rfl
@[simp] theorem State.setPos_pending (i : Fin 2) (w : Word) : (s.setPos i w).pending = s.pending := rfl
@[simp] theorem State.setPos_responses (i : Fin 2) (w : Word) : (s.setPos i w).responses = s.responses := rfl

@[simp] theorem State.setX_cfg (v : Vector Word 16) : (s.setX v).cfg = s.cfg := rfl
@[simp] theorem State.setX_key (v : Vector Word 16) : (s.setX v).key = s.key := rfl
@[simp] theorem State.setX_sid (v : Vector Word 16) : (s.setX v).sid = s.sid := rfl
@[simp] theorem State.setX_pos (v : Vector Word 16) : (s.setX v).pos = s.pos := rfl
@[simp] theorem State.setX_x (v : Vector Word 16) : (s.setX v).x = v := rfl
@[simp] theorem State.setX_ibuf (v : Vector Word 16) : (s.setX v).ibuf = s.ibuf := rfl
@[simp] theorem State.setX_obuf (v : Vector Word 16) : (s.setX v).obuf = s.obuf := rfl
@[simp] theorem State.setX_pending (v : Vector Word 16) : (s.setX v).pending = s.pending := rfl
@[simp] theorem State.setX_responses (v : Vector Word 16) : (s.setX v).responses = s.responses := rfl

@[simp] theorem State.clearInput_cfg : (s.clearInput).cfg = s.cfg := rfl
@[simp] theorem State.clearInput_key : (s.clearInput).key = s.key := rfl
@[simp] theorem State.clearInput_sid : (s.clearInput).sid = s.sid := rfl
@[simp] theorem State.clearInput_pos : (s.clearInput).pos = s.pos := rfl
@[simp] theorem State.clearInput_x : (s.clearInput).x = s.x := rfl
@[simp] theorem State.clearInput_ibuf : (s.clearInput).ibuf = [] := rfl
@[simp] theorem State.clearInput_obuf : (s.clearInput).obuf = s.obuf := rfl
@[simp] theorem State.clearInput_pending : (s.clearInput).pending = s.pending := rfl
@[simp] theorem State.clearInput_responses : (s.clearInput).responses = s.responses := rfl

@[simp] theorem State.appendInput_cfg (b : Byte) : (s.appendInput b).cfg = s.cfg := rfl
@[simp] theorem State.appendInput_key (b : Byte) : (s.appendInput b).key = s.key := rfl
@[simp] theorem State.appendInput_sid (b : Byte) : (s.appendInput b).sid = s.sid := rfl
@[simp] theorem State.appendInput_pos (b : Byte) : (s.appendInput b).pos = s.pos := rfl
@[simp] theorem State.appendInput_x (b : Byte) : (s.appendInput b).x = s.x := rfl
@[simp] theorem State.appendInput_ibuf (b : Byte) : (s.appendInput b).ibuf = s.ibuf ++ [b] := rfl
@[simp] theorem State.appendInput_obuf (b : Byte) : (s.appendInput b).obuf = s.obuf := rfl
@[simp] theorem State.appendInput_pending (b : Byte) : (s.appendInput b).pending = s.pending := rfl
@[simp] theorem State.appendInput_responses (b : Byte) : (s.appendInput b).responses = s.responses := rfl

@[simp] theorem State.setOutput_cfg (t : List Byte) : (s.setOutput t).cfg = s.cfg := rfl
@[simp] theorem State.setOutput_key (t : List Byte) : (s.setOutput t).key = s.key := rfl
@[simp] theorem State.setOutput_sid (t : List Byte) : (s.setOutput t).sid = s.sid := rfl
@[simp] theorem State.setOutput_pos (t : List Byte) : (s.setOutput t).pos = s.pos := rfl
@[simp] theorem State.setOutput_x (t : List Byte) : (s.setOutput t).x = s.x := rfl
@[simp] theorem State.setOutput_ibuf (t : List Byte) : (s.setOutput t).ibuf = s.ibuf := rfl
@[simp] theorem State.setOutput_obuf (t : List Byte) : (s.setOutput t).obuf = t := rfl
@[simp] theorem State.setOutput_pending (t : List Byte) : (s.setOutput t).pending = s.pending := rfl
@[simp] theorem State.setOutput_responses (t : List Byte) : (s.setOutput t).responses = s.responses := rfl

/-! The values of the reset state, in every configuration. -/

variable (c : Config)

@[simp] theorem State.resetWith_cfg : (State.resetWith c).cfg = c := rfl
@[simp] theorem State.resetWith_key : (State.resetWith c).key = Vector.replicate 8 0 := rfl
@[simp] theorem State.resetWith_sid : (State.resetWith c).sid = Vector.replicate 2 0 := rfl
@[simp] theorem State.resetWith_pos : (State.resetWith c).pos = Vector.replicate 2 0 := rfl
@[simp] theorem State.resetWith_x : (State.resetWith c).x = Vector.replicate 16 0 := rfl
@[simp] theorem State.resetWith_ibuf : (State.resetWith c).ibuf = [] := rfl
@[simp] theorem State.resetWith_obuf : (State.resetWith c).obuf = [] := rfl
@[simp] theorem State.resetWith_pending : (State.resetWith c).pending = [] := rfl
@[simp] theorem State.resetWith_responses : (State.resetWith c).responses = [] := rfl

end Sys2Proof.Machine
end

