-- ==== Sys2Proof/Laws/Ops.lean ====
section
/-! SUPPORT. What each shared operation can do, said once: the index check, the two ways a command ends, reset, and that every
buffer operation keeps the capacities. -/

namespace Sys2Proof.Machine

/-! ### The index check -/

theorem State.withIndex_of_lt {s : State} {idx bound : Nat} (h : idx < bound) (body : Fin bound → State) :
    s.withIndex idx bound body = body ⟨idx, h⟩ := dif_pos h

theorem State.withIndex_of_le {s : State} {idx bound : Nat} (h : bound ≤ idx) (body : Fin bound → State) :
    s.withIndex idx bound body = s.raise .indexRange (zextNat idx) := dif_neg (Nat.not_lt.mpr h)

/-- Everything the index check can do: go on with the index in range, or raise IndexRange. -/
theorem State.withIndex_cases (s : State) (idx bound : Nat) (body : Fin bound → State) :
    (∃ h : idx < bound, s.withIndex idx bound body = body ⟨idx, h⟩) ∨
      (bound ≤ idx ∧ s.withIndex idx bound body = s.raise .indexRange (zextNat idx)) := by
  by_cases h : idx < bound
  · exact .inl ⟨h, State.withIndex_of_lt h body⟩
  · exact .inr ⟨Nat.not_lt.mp h, State.withIndex_of_le (Nat.not_lt.mp h) body⟩

/-- A property of both outcomes is a property of the check. -/
theorem State.withIndex_property {s : State} {idx bound : Nat} {body : Fin bound → State} {P : State → Prop}
    (hbody : ∀ i, P (body i)) (hraise : P (s.raise .indexRange (zextNat idx))) : P (s.withIndex idx bound body) := by
  rcases s.withIndex_cases idx bound body with ⟨h, e⟩ | ⟨_, e⟩ <;> rw [e]
  · exact hbody _
  · exact hraise

/-! ### The codes of the two endings -/

@[simp] theorem Err.code_ok : Err.ok.code = 0 := rfl
@[simp] theorem Err.code_invalidBase64Length : Err.invalidBase64Length.code = 2 := rfl
@[simp] theorem Err.code_invalidBase64Character : Err.invalidBase64Character.code = 3 := rfl
@[simp] theorem Err.code_illegalCommand : Err.illegalCommand.code = 8 := rfl
@[simp] theorem Err.code_indexRange : Err.indexRange.code = 9 := rfl
@[simp] theorem Err.code_bufferFull : Err.bufferFull.code = 10 := rfl

/-- Two names of 60_exceptions.md R130 never share a number. -/
theorem Err.code_injective : Function.Injective Err.code := by
  intro a b h
  cases a <;> cases b <;> first | rfl | exact absurd h (by decide)

/-! ### Reset -/

/-- Reset of any state leaves, in the architectural fields, the reset state of its configuration. -/
theorem State.clear_eq_resetWith (s : State) :
    s.clear = { State.resetWith s.cfg with pending := s.pending, responses := s.responses } := rfl

@[simp] theorem State.clear_clear (s : State) : s.clear.clear = s.clear := rfl

/-! ### The buffers keep their capacities -/

theorem Memory.wf_clearInput {s : State} (h : Memory.wf s) : Memory.wf s.clearInput :=
  ⟨Nat.zero_le _, h.2⟩

theorem Memory.wf_appendInput {s : State} (h : Memory.wf s) (hn : s.ilen ≠ s.cfg.nb) (b : Byte) :
    Memory.wf (s.appendInput b) := by
  obtain ⟨h1, h2⟩ := h
  refine ⟨?_, h2⟩
  simp only [State.appendInput_ibuf, State.appendInput_cfg, List.length_append, List.length_singleton]
  unfold State.ilen at hn
  omega

theorem Memory.wf_setOutput {s : State} (h : Memory.wf s) {t : List Byte} (ht : t.length ≤ s.cfg.ob) :
    Memory.wf (s.setOutput t) := ⟨h.1, ht⟩

theorem Memory.wf_clear (s : State) : Memory.wf s.clear := ⟨Nat.zero_le _, Nat.zero_le _⟩

theorem Memory.wf_resetWith (c : Config) : Memory.wf (State.resetWith c) := ⟨Nat.zero_le _, Nat.zero_le _⟩

end Sys2Proof.Machine
end

