-- ==== Sys2Proof/Laws/PerInstr.lean ====
section
/-! SUPPORT. A family of statements about every command as syntax: the encoder puts the opcode of the command's row into
`cw[31:24]` and zero into `cw[23:16]`, and the index, where it is well formed, into `cw[15:0]` (30_encoding.md R51). -/

namespace Sys2Proof.Laws

/-- The three fields of the encoded command word. -/
def EncodedFields.Statement (i : Instr) : Prop :=
  opField (encode i).1 = opcode i ∧ rsvField (encode i).1 = 0 ∧
    (i.wellFormed = true → indexOf (encode i).1 = i.index?.getD 0)

/-- The fields of any encoded command, from those of its command word. -/
theorem encodedFields_of_index (i : Instr) : EncodedFields.Statement i := by
  refine ⟨opField_commandWord _ _, rsvField_commandWord _ _, fun h => ?_⟩
  rw [encode, indexOf_commandWord, BitVec.toNat_ofNat]
  apply Nat.mod_eq_of_lt
  revert h
  unfold Instr.wellFormed
  cases i.index? with
  | none => exact fun _ => by decide
  | some idx => exact of_decide_eq_true

theorem EncodedFields.nop : EncodedFields.Statement .nop := encodedFields_of_index _
theorem EncodedFields.rdsr (idx : Nat) : EncodedFields.Statement (.rdsr idx) := encodedFields_of_index _
theorem EncodedFields.srst : EncodedFields.Statement .srst := encodedFields_of_index _
theorem EncodedFields.ldkey (idx : Nat) (wd : Word) : EncodedFields.Statement (.ldkey idx wd) := encodedFields_of_index _
theorem EncodedFields.ldsid (idx : Nat) (wd : Word) : EncodedFields.Statement (.ldsid idx wd) := encodedFields_of_index _
theorem EncodedFields.ldpos (idx : Nat) (wd : Word) : EncodedFields.Statement (.ldpos idx wd) := encodedFields_of_index _
theorem EncodedFields.gen : EncodedFields.Statement .gen := encodedFields_of_index _
theorem EncodedFields.rdx (idx : Nat) : EncodedFields.Statement (.rdx idx) := encodedFields_of_index _
theorem EncodedFields.iclr : EncodedFields.Statement .iclr := encodedFields_of_index _
theorem EncodedFields.ipush (data : Byte) : EncodedFields.Statement (.ipush data) := encodedFields_of_index _
theorem EncodedFields.enc : EncodedFields.Statement .enc := encodedFields_of_index _
theorem EncodedFields.dec : EncodedFields.Statement .dec := encodedFields_of_index _
theorem EncodedFields.val : EncodedFields.Statement .val := encodedFields_of_index _
theorem EncodedFields.ord (idx : Nat) : EncodedFields.Statement (.ord idx) := encodedFields_of_index _
theorem EncodedFields.rdelut (idx : Nat) : EncodedFields.Statement (.rdelut idx) := encodedFields_of_index _
theorem EncodedFields.rddlut (idx : Nat) : EncodedFields.Statement (.rddlut idx) := encodedFields_of_index _

end Sys2Proof.Laws
end

