-- ==== Sys2Proof/Laws/Run.lean ====
section
/-! SUPPORT. What one step can do, said once, and how runs are taken apart. -/

namespace Sys2Proof.Machine

/-! ### One step -/

theorem step_of_nil {s : State} (h : s.pending = []) : step s = .next s := by
  simp only [step, runNext, h]

theorem step_of_cons {s : State} {e : HostEvent} {rest : List HostEvent} (h : s.pending = e :: rest) :
    step s = runEvent e { s with pending := rest } := by
  simp only [step, runNext, h]

theorem runCommand_of_some {cw wd : Word} {i : Instr} (h : decode cw wd = some i) (s : State) :
    runCommand cw wd s = exec i s := by
  simp only [runCommand, h]

theorem runCommand_of_none {cw wd : Word} (h : decode cw wd = none) (s : State) :
    runCommand cw wd s = .next (s.raise .illegalCommand cw) := by
  simp only [runCommand, h]

/-- Every meaning answers a next state. -/
theorem exec_answers (i : Instr) (s : State) : ∃ t, exec i s = .next t := by
  cases i
  case dec =>
    show ∃ t, execDec s = .next t
    unfold execDec
    cases decodeCheck s.ibuf <;> exact ⟨_, rfl⟩
  all_goals exact ⟨_, rfl⟩

theorem runCommand_answers (cw wd : Word) (s : State) : ∃ t, runCommand cw wd s = .next t := by
  cases h : decode cw wd with
  | none => exact ⟨_, runCommand_of_none h s⟩
  | some i => rw [runCommand_of_some h]; exact exec_answers i s

/-- Every step answers a next state. -/
theorem step_cons_answers {s : State} {e : HostEvent} {rest : List HostEvent} (h : s.pending = e :: rest) :
    ∃ t, step s = .next t := by
  rw [step_of_cons h]
  cases e with
  | command cw wd => exact runCommand_answers cw wd _
  | reset => exact ⟨_, rfl⟩
  | cutByReset cw wd => exact ⟨_, rfl⟩

/-- Everything one step can do: idle; a command that decodes, run by its meaning; an illegal word; a reset. -/
theorem step_cases {s t : State} (h : step s = .next t) :
    (s.pending = [] ∧ t = s) ∨
    (∃ cw wd rest i, s.pending = .command cw wd :: rest ∧ decode cw wd = some i ∧
      exec i { s with pending := rest } = .next t) ∨
    (∃ cw wd rest, s.pending = .command cw wd :: rest ∧ decode cw wd = none ∧
      t = ({ s with pending := rest } : State).raise .illegalCommand cw) ∨
    (∃ e rest, s.pending = e :: rest ∧ (e = .reset ∨ ∃ cw wd, e = .cutByReset cw wd) ∧
      t = ({ s with pending := rest } : State).clear) := by
  cases hp : s.pending with
  | nil =>
    rw [step_of_nil hp] at h
    cases h
    exact .inl ⟨rfl, rfl⟩
  | cons e rest =>
    rw [step_of_cons hp] at h
    refine .inr ?_
    cases e with
    | command cw wd =>
      cases hd : decode cw wd with
      | some i =>
        rw [runEvent, runCommand_of_some hd] at h
        exact .inl ⟨cw, wd, rest, i, rfl, hd, h⟩
      | none =>
        rw [runEvent, runCommand_of_none hd] at h
        cases h
        exact .inr (.inl ⟨cw, wd, rest, rfl, hd, rfl⟩)
    | reset =>
      cases h
      exact .inr (.inr ⟨_, rest, rfl, .inl rfl, rfl⟩)
    | cutByReset cw wd =>
      cases h
      exact .inr (.inr ⟨_, rest, rfl, .inr ⟨cw, wd, rfl⟩, rfl⟩)

/-! ### Runs -/

/-- One step more of any machine, where the step answers a next state. -/
theorem coreRun_succ {M : Host.Core} {s t : M.State} (h : M.step s = .next t) (k : Nat) : M.run (k + 1) s = M.run k t := by
  simp only [Host.Core.run, h]

@[simp] theorem run_zero (s : State) : Sys2Proof.core.run 0 s = .next s := rfl

theorem run_succ {s t : State} (h : step s = .next t) (k : Nat) :
    Sys2Proof.core.run (k + 1) s = Sys2Proof.core.run k t :=
  coreRun_succ (M := Sys2Proof.core) h k

/-- A run of `m + n` steps is a run of `n` steps from where `m` steps lead. -/
theorem run_add {s t : State} {m : Nat} (h : Sys2Proof.core.run m s = .next t) (n : Nat) :
    Sys2Proof.core.run (m + n) s = Sys2Proof.core.run n t := by
  induction m generalizing s with
  | zero =>
    cases h
    rw [Nat.zero_add]
  | succ m ih =>
    cases hs : step s with
    | next u =>
      rw [run_succ hs] at h
      rw [Nat.succ_add, run_succ hs]
      exact ih h
    | fault r => cases r
    | refused r =>
      cases hp : s.pending with
      | nil => rw [step_of_nil hp] at hs; cases hs
      | cons e rest =>
        obtain ⟨u, hu⟩ := step_cons_answers hp
        rw [hu] at hs
        cases hs

end Sys2Proof.Machine
end

