-- ==== Sys2Proof/Laws/Port.lean ====
section
/-! SUPPORT. What one edge of the port layer can do, said once per phase. -/

namespace Sys2Proof.Machine

/-- `cmd_ready = 1` in phase ready alone. -/
theorem PortState.cmdReady_iff (p : PortState) : p.cmdReady = true ↔ p.phase = .ready := by
  unfold PortState.cmdReady
  cases p.phase <;> simp

/-- `rsp_valid = 1` in phase responding alone. -/
theorem PortState.rspValid_iff (p : PortState) : p.rspValid = true ↔ ∃ cw wd done, p.phase = .responding cw wd done := by
  unfold PortState.rspValid
  cases p.phase <;> simp

/-- Everything an accepted command can do at an edge: run on, or present the state its transaction leaves. -/
theorem PortState.executeAfter_cases (p : PortState) (cw wd : Word) (n : Nat) :
    (∃ m, n = m + 1 ∧ p.executeAfter cw wd n = .next { p with phase := .executing cw wd m }) ∨
      (n = 0 ∧ ∃ t, runCommand cw wd p.block = .next t ∧
        p.executeAfter cw wd n = .next { p with phase := .responding cw wd t }) := by
  cases n with
  | succ m => exact .inl ⟨m, rfl, rfl⟩
  | zero =>
    obtain ⟨t, h⟩ := runCommand_answers cw wd p.block
    exact .inr ⟨rfl, t, h, by simp only [PortState.executeAfter, h]⟩

/-- The phase before the block is ready again. -/
theorem readyAfter_cases (n : Nat) : readyAfter n = .ready ∨ ∃ m, readyAfter n = .waiting m := by
  cases n with
  | zero => exact .inl rfl
  | succ m => exact .inr ⟨m, rfl⟩

/-! ### One edge, by phase -/

variable {p : PortState} {i : PortIn}

theorem PortState.clock_of_reset (p : PortState) (h : i.rstN = false) :
    p.clock i = .next { block := p.block.clear, phase := .held } := by
  rw [PortState.clock, if_pos h]

theorem PortState.clock_of_held (h : i.rstN = true) (hp : p.phase = .held) :
    p.clock i = .next { p with phase := readyAfter Config.tReset } := by
  simp [PortState.clock, h, hp]

theorem PortState.clock_of_waiting {n : Nat} (h : i.rstN = true) (hp : p.phase = .waiting n) :
    p.clock i = .next { p with phase := readyAfter n } := by
  simp [PortState.clock, h, hp]

theorem PortState.clock_of_idle (h : i.rstN = true) (hp : p.phase = .ready) (hv : i.cmdValid = false) :
    p.clock i = .next p := by
  simp [PortState.clock, h, hp, hv]

theorem PortState.clock_of_accept (h : i.rstN = true) (hp : p.phase = .ready) (hv : i.cmdValid = true) :
    p.clock i = p.executeAfter i.cmdWord i.cmdWdata (latency i.cmdWord i.cmdWdata p.block) := by
  simp [PortState.clock, h, hp, hv]

theorem PortState.clock_of_executing {cw wd : Word} {n : Nat} (h : i.rstN = true) (hp : p.phase = .executing cw wd n) :
    p.clock i = p.executeAfter cw wd n := by
  simp [PortState.clock, h, hp]

theorem PortState.clock_of_unaccepted {cw wd : Word} {done : State} (h : i.rstN = true)
    (hp : p.phase = .responding cw wd done) (hr : i.rspReady = false) : p.clock i = .next p := by
  simp [PortState.clock, h, hp, hr]

theorem PortState.clock_of_delivery {cw wd : Word} {done : State} (h : i.rstN = true)
    (hp : p.phase = .responding cw wd done) (hr : i.rspReady = true) :
    p.clock i = .next { block := done, phase := readyAfter (Config.tRearm cw) } := by
  simp [PortState.clock, h, hp, hr]

end Sys2Proof.Machine
end

