-- ==== Sys2Proof/Laws/Timing.lean ====
section
/-! SUPPORT. The two positions a codec latency may look at (70_reset_and_hazards.md R157) are the lowest offending and the lowest
invalid index, and two texts that agree on them agree on the functions that find them. -/

namespace Sys2Proof.Machine

/-- The last but one character is followed by the last: what `charAccepted` reads through `getLast?`. -/
theorem lastIsPad_iff {t : List Byte} {i : Nat} (h : i + 2 = t.length) :
    t.getLast?.map charClass = some .pad ↔ ∃ d, t[i + 1]? = some d ∧ charClass d = .pad := by
  rw [List.getLast?_eq_getElem?, show t.length - 1 = i + 1 by omega, Option.map_eq_some_iff]

/-- `charAccepted` refuses exactly the offending characters. -/
theorem not_charAccepted_iff {t : List Byte} {i : Nat} {c : Byte} (h : t[i]? = some c) :
    charAccepted t i c = false ↔ Offends t i := by
  have hoff : Offends t i ↔ charClass c = .invalid ∨ (charClass c = .pad ∧ i + 1 ≠ t.length ∧
      ¬ (i + 2 = t.length ∧ ∃ d, t[i + 1]? = some d ∧ charClass d = .pad)) := by
    simp only [Offends, h, Option.some.injEq, exists_eq_left']
  rw [hoff, charAccepted]
  cases hc : charClass c with
  | data => simp
  | invalid => simp
  | pad =>
    by_cases h2 : i + 2 = t.length
    · have h1 : i + 1 ≠ t.length := by omega
      simp only [h1, h2, lastIsPad_iff h2, decide_false, decide_true, Bool.false_or, Bool.true_and, decide_eq_false_iff_not,
        ne_eq, not_false_eq_true, true_and, reduceCtorEq, false_or]
    · simp [h2]

/-- The first offender found is the lowest offending index. -/
theorem firstOffender_eq_some_iff {t : List Byte} {i : Nat} : firstOffender t = some i ↔ FirstOffends t i := by
  have off (j : Nat) (hj : j < t.length) : charAccepted t j t[j] = false ↔ Offends t j :=
    not_charAccepted_iff (List.getElem?_eq_getElem hj)
  rw [firstOffender, Option.map_eq_some_iff]
  constructor
  · rintro ⟨⟨c, k⟩, hfind, rfl⟩
    obtain ⟨hp, n, hn, hget, hbefore⟩ := List.find?_eq_some_iff_getElem.mp hfind
    simp only [List.length_zipIdx] at hn
    simp only [List.getElem_zipIdx, Prod.mk.injEq, Nat.zero_add] at hget
    obtain ⟨rfl, rfl⟩ := hget
    refine ⟨(off n hn).mp (by simpa using hp), fun j hj => ?_⟩
    rw [← off j (hj.trans hn)]
    have := hbefore j hj
    simp only [List.getElem_zipIdx, Nat.zero_add, Bool.not_not] at this
    simp [this]
  · rintro ⟨hoff, hbefore⟩
    have hi : i < t.length := by
      obtain ⟨c, hc, -⟩ := hoff
      exact (List.getElem?_eq_some_iff.mp hc).1
    refine ⟨(t[i], i), List.find?_eq_some_iff_getElem.mpr ⟨by simpa using (off i hi).mpr hoff, i, by simpa using hi, by simp, ?_⟩, rfl⟩
    intro j hj
    have := mt (off j (hj.trans hi)).mp (hbefore j hj)
    simpa using this

/-- The first invalid character found is the one at the lowest invalid index. -/
theorem firstInvalid_eq_some_iff {t : List Byte} {i : Nat} : firstInvalid t = some i ↔ FirstInvalidAt t i := by
  have inv (j : Nat) (hj : j < t.length) : InvalidAt t j ↔ charClass t[j] = .invalid := by
    simp only [InvalidAt, List.getElem?_eq_getElem hj, Option.some.injEq, exists_eq_left']
  rw [firstInvalid, List.findIdx?_eq_some_iff_getElem]
  constructor
  · rintro ⟨hi, hp, hbefore⟩
    refine ⟨(inv i hi).mpr (by simpa using hp), fun j hj => ?_⟩
    rw [inv j (hj.trans hi)]
    simpa using hbefore j hj
  · rintro ⟨hinv, hbefore⟩
    have hi : i < t.length := by
      obtain ⟨c, hc, -⟩ := hinv
      exact (List.getElem?_eq_some_iff.mp hc).1
    refine ⟨hi, by simpa using (inv i hi).mp hinv, fun j hj => ?_⟩
    simpa [inv j (hj.trans hi)] using hbefore j hj

/-- Two texts with the same first offending position have the same `firstOffender`. -/
theorem firstOffender_congr {t u : List Byte} (h : ∀ i, FirstOffends t i ↔ FirstOffends u i) : firstOffender t = firstOffender u :=
  Option.ext fun i => by rw [firstOffender_eq_some_iff, firstOffender_eq_some_iff, h]

/-- Two texts with the same first invalid position have the same `firstInvalid`. -/
theorem firstInvalid_congr {t u : List Byte} (h : ∀ i, FirstInvalidAt t i ↔ FirstInvalidAt u i) : firstInvalid t = firstInvalid u :=
  Option.ext fun i => by rw [firstInvalid_eq_some_iff, firstInvalid_eq_some_iff, h]

end Sys2Proof.Machine
end

