-- ==== Sys2Proof/Tests/Slice0.lean ====
section
/-! SUPPORT. The model's own tests: ill-formed terms refused, words of the spec's encoding decoded, one step per command with
the values of the spec's examples and of 95_test_vectors.md, and for each obligation with hypotheses a state that meets them. -/

open Sys2Proof Sys2Proof.Machine

namespace Sys2Proof.Tests

/-! ### Helpers -/

/-- The state a step leads to, if it is a next state. -/
def next? : Host.Outcome State Fault Refusal → Option State
  | .next t => some t
  | .fault _ => none
  | .refused _ => none

/-- The response of one command presented in a state. -/
def answer (s : State) (cw wd : Word) : Option Response :=
  (next? (step { s with pending := [.command cw wd] })).bind fun t => t.responses.getLast?

/-- A response literal. -/
def rsp (err : BitVec 4) (data : Word) : Option Response := some ⟨err, data⟩

/-- The reset state with the given bytes pushed. -/
def withInput (t : List Byte) : State := { State.reset with ibuf := t }

/-- The reset state with the given bytes in the output buffer. -/
def withOutput (t : List Byte) : State := { State.reset with obuf := t }

/-- An instance with NB = 3, its input buffer full (42_base64.md R104, example). -/
def fullOfThree : State := { State.resetWith { Config.default with nb := 3 } with ibuf := [0x4D, 0x61, 0x6E] }

/-- "Man" and "TWFu" (95_test_vectors.md S6). -/
def man : List Byte := [0x4D, 0x61, 0x6E]

/-- The text of `man`. -/
def manText : List Byte := [0x54, 0x57, 0x46, 0x75]

/-! ### WellFormed: an index beyond its 16-bit field is refused (30_encoding.md R51) -/

theorem test_illformed_rdsr : (Instr.rdsr 65536).wellFormed = false := by decide
theorem test_illformed_ldkey : (Instr.ldkey 65536 0).wellFormed = false := by decide
theorem test_illformed_ldsid : (Instr.ldsid 65536 0).wellFormed = false := by decide
theorem test_illformed_ldpos : (Instr.ldpos 65536 0).wellFormed = false := by decide
theorem test_illformed_rdx : (Instr.rdx 65536).wellFormed = false := by decide
theorem test_illformed_ord : (Instr.ord 65536).wellFormed = false := by decide
theorem test_illformed_rdelut : (Instr.rdelut 65536).wellFormed = false := by decide
theorem test_illformed_rddlut : (Instr.rddlut 65536).wellFormed = false := by decide
theorem test_wellformed_largest_index : (Instr.rdsr 65535).wellFormed = true := by decide

/-! ### Decode: one word per command, bit by bit from 30_encoding.md R51, R54 -/

theorem test_decode_nop : decode 0b00000000_00000000_00000000_00000000 0xDEADBEEF = some .nop := by decide
theorem test_decode_rdsr : decode 0b00000001_00000000_11111111_11111111 0 = some (.rdsr 65535) := by decide
theorem test_decode_srst : decode 0b00000010_00000000_00000000_00000000 0 = some .srst := by decide
theorem test_decode_ldkey :
    decode 0b00010000_00000000_00000000_00000011 0x0F0E0D0C = some (.ldkey 3 0x0F0E0D0C) := by decide
theorem test_decode_ldsid : decode 0b00010001_00000000_00000000_00000001 7 = some (.ldsid 1 7) := by decide
theorem test_decode_ldpos : decode 0b00010010_00000000_00000000_00000001 7 = some (.ldpos 1 7) := by decide
theorem test_decode_gen : decode 0b00010011_00000000_00000000_00000000 0x12345678 = some .gen := by decide
theorem test_decode_rdx : decode 0b00010100_00000000_00000000_00001111 0 = some (.rdx 15) := by decide
theorem test_decode_iclr : decode 0b00100000_00000000_00000000_00000000 0 = some .iclr := by decide
theorem test_decode_ipush : decode 0b00100001_00000000_00000000_00000000 0x12345641 = some (.ipush 0x41) := by decide
theorem test_decode_enc : decode 0b00100010_00000000_00000000_00000000 0 = some .enc := by decide
theorem test_decode_dec : decode 0b00100011_00000000_00000000_00000000 0 = some .dec := by decide
theorem test_decode_val : decode 0b00100100_00000000_00000000_00000000 0 = some .val := by decide
theorem test_decode_ord : decode 0b00100101_00000000_10000000_00000001 0 = some (.ord 32769) := by decide
theorem test_decode_rdelut : decode 0b00100110_00000000_00000000_00111111 0 = some (.rdelut 63) := by decide
theorem test_decode_rddlut : decode 0b00100111_00000000_00000000_11111111 0 = some (.rddlut 255) := by decide

/-- The illegal words of 95_test_vectors.md table X: X2, X3, X10, X12, X13, X19, X21, X22, X25, X32, X33, X34, X35. -/
theorem test_illegal_words :
    [0x00000001, 0x00010000, 0x01010000, 0x03000000, 0x0F000000, 0x13000001, 0x14010010, 0x15000000, 0x21000001, 0x28000000,
      0x30000000, 0xFF000000, 0xFFFFFFFF].all (fun cw : Word =>
        answer State.reset cw 0 == rsp 8 cw) = true := by decide

theorem test_encode_ldkey : encode (.ldkey 3 0x0F0E0D0C) = (0x10000003, 0x0F0E0D0C) := by decide
theorem test_encode_ipush : encode (.ipush 0x4D) = (0x21000000, 0x0000004D) := by decide

/-! ### One step per command, with the spec's values -/

/-- 95_test_vectors.md X1. -/
theorem test_nop : answer State.reset 0x00000000 0xDEADBEEF = rsp 0 0 := by decide
/-- 40_system.md R71, example. -/
theorem test_rdsr_capacities : answer State.reset 0x01000001 0 = rsp 0 0x010000C0 := by decide
/-- 95_test_vectors.md X8. -/
theorem test_rdsr_index : answer State.reset 0x01000004 0 = rsp 9 4 := by decide
/-- 40_system.md R72. -/
theorem test_srst_clears : (next? (exec .srst fullOfThree)).map (fun t => (t.ibuf, t.cfg.nb)) = some ([], 3) := by decide
/-- 41_chacha.md R80, example. -/
theorem test_ldkey : (next? (exec (.ldkey 0 0x03020100) State.reset)).map (fun t => (t.key[0], t.key[1])) =
    some (0x03020100, 0) := by decide
/-- 95_test_vectors.md X15. -/
theorem test_ldkey_index : answer State.reset 0x10000008 5 = rsp 9 8 := by decide
/-- 41_chacha.md R81, example: the high half. -/
theorem test_ldsid : (next? (exec (.ldsid 1 0x07060504) State.reset)).map (fun t => (t.sid[0], t.sid[1], t.pos[1])) =
    some (0, 0x07060504, 0) := by decide
/-- 95_test_vectors.md X16. -/
theorem test_ldsid_index : answer State.reset 0x11000002 0 = rsp 9 2 := by decide
/-- 41_chacha.md R82, example: the low half. -/
theorem test_ldpos : (next? (exec (.ldpos 0 1) State.reset)).map (fun t => (t.pos[0], t.pos[1], t.sid[0])) =
    some (1, 0, 0) := by decide
/-- 95_test_vectors.md X17. -/
theorem test_ldpos_index : answer State.reset 0x12000002 0 = rsp 9 2 := by decide

/-- The operands of vector G1 (95_test_vectors.md). -/
def operandsG1 (m : SlotMap) : State :=
  { State.resetWith { Config.default with slotMap := m } with
    key := #v[0x03020100, 0x07060504, 0x0B0A0908, 0x0F0E0D0C, 0x13121110, 0x17161514, 0x1B1A1918, 0x1F1E1D1C]
    sid := #v[0x03020100, 0x07060504]
    pos := #v[0x00000001, 0x00000000] }

/-- 95_test_vectors.md G1, SID_FIRST. -/
theorem test_gen_sid_first : (next? (exec .gen (operandsG1 .sidFirst))).map (·.x) = some
    #v[0x7A9CB520, 0x7FBAD621, 0x2261A680, 0xA3B84271, 0x8258DFB8, 0xD8C13C97, 0x708384A9, 0x309BC797,
       0x26F5144C, 0x87725825, 0x7BABFA83, 0x9C2CC9E9, 0x0E4AEAE1, 0xABF15F13, 0x4395C939, 0xE7AE6929] := by decide +kernel
/-- 95_test_vectors.md G1, POS_FIRST. -/
theorem test_gen_pos_first : (next? (exec .gen (operandsG1 .posFirst))).map (·.x) = some
    #v[0x2450FE83, 0xD2B0C0DB, 0x1860D93B, 0x32062905, 0x132EEEAC, 0xD450BCD5, 0xE28237E0, 0x6A8E0B0F,
       0xEE77346B, 0x65A7CCA8, 0x1337CAC2, 0x174F64AF, 0xE5A07B9F, 0xEC8ACD2F, 0xAECF016F, 0xA0451289] := by decide +kernel
/-- 41_chacha.md R86, worked example: Q2 of 95_test_vectors.md. -/
theorem test_quarter_round : qr 0x11111111 0x01020304 0x9B8D6F43 0x01234567 =
    (0xEA2A92F4, 0xCB1CF8CE, 0x4581472E, 0x5881C4BB) := by decide
/-- 41_chacha.md R85, worked values. -/
theorem test_rotl32 : rotl32 0x80000001 1 = 3 ∧ rotl32 0x12345678 16 = 0x56781234 ∧ rotl32 0x12345678 12 = 0x45678123 ∧
    rotl32 0x12345678 8 = 0x34567812 ∧ rotl32 0x12345678 7 = 0x1A2B3C09 ∧ add32 0xFFFFFFFF 1 = 0 ∧
    add32 0x80000000 0x80000000 = 0 := by decide
/-- 95_test_vectors.md G1: the column round of the first double-round, words 0, 5, 10 and 15. -/
theorem test_column_round :
    let x := colRound (initState .sidFirst (operandsG1 .sidFirst).key (operandsG1 .sidFirst).sid (operandsG1 .sidFirst).pos)
    (x[0], x[5], x[10], x[15]) = (0xBC0A81EC, 0xD5F257EB, 0xE0D550CF, 0x52A647F1) := by decide +kernel

/-- 41_chacha.md R84: word 15. -/
theorem test_rdx : answer { State.reset with x := State.reset.x.set 15 0x42FE0C0E } 0x1400000F 0 = rsp 0 0x42FE0C0E := by decide
/-- 95_test_vectors.md X20. -/
theorem test_rdx_index : answer State.reset 0x14000010 0 = rsp 9 0x10 := by decide
/-- 42_base64.md R103. -/
theorem test_iclr : (next? (exec .iclr { withInput man with obuf := manText })).map (fun t => (t.ibuf, t.obuf)) =
    some ([], manText) := by decide
/-- 42_base64.md R104: appended at the end. -/
theorem test_ipush : (next? (exec (.ipush 0x41) (withInput man))).map (·.ibuf) = some [0x4D, 0x61, 0x6E, 0x41] := by decide
/-- 42_base64.md R104, example: NB = 3. -/
theorem test_ipush_full : answer fullOfThree 0x21000000 0x41 = rsp 10 3 := by decide
/-- 95_test_vectors.md E4. -/
theorem test_enc : (next? (exec .enc (withInput man))).map (·.obuf) = some manText := by decide
/-- 95_test_vectors.md E14: FB FF is "+/8=". -/
theorem test_enc_two_left : (next? (exec .enc (withInput [0xFB, 0xFF]))).map (·.obuf) = some [0x2B, 0x2F, 0x38, 0x3D] := by decide
/-- 95_test_vectors.md D6: "TWF=" gives 4D 61. -/
theorem test_dec : (next? (exec .dec (withInput [0x54, 0x57, 0x46, 0x3D]))).map (·.obuf) = some [0x4D, 0x61] := by decide
/-- 95_test_vectors.md D7 "abcde", D8 "ab#d", D15 "T===", D17 "TQ==TWFu". -/
theorem test_dec_errors :
    answer (withInput [0x61, 0x62, 0x63, 0x64, 0x65]) 0x23000000 0 = rsp 2 5 ∧
    answer (withInput [0x61, 0x62, 0x23, 0x64]) 0x23000000 0 = rsp 3 2 ∧
    answer (withInput [0x54, 0x3D, 0x3D, 0x3D]) 0x23000000 0 = rsp 3 1 ∧
    answer (withInput ([0x54, 0x51, 0x3D, 0x3D] ++ manText)) 0x23000000 0 = rsp 3 2 := by decide
/-- 95_test_vectors.md D14: "====" is valid for VAL. -/
theorem test_val : answer (withInput [0x3D, 0x3D, 0x3D, 0x3D]) 0x24000000 0 = rsp 0 1 := by decide
/-- 95_test_vectors.md D20: "TW_u". -/
theorem test_val_invalid : answer (withInput [0x54, 0x57, 0x5F, 0x75]) 0x24000000 0 = rsp 0 0 := by decide
/-- 42_base64.md R111, example. -/
theorem test_ord : answer (withOutput manText) 0x25000003 0 = rsp 0 0x75 := by decide
/-- 42_base64.md R111, example: the bound is OLEN. -/
theorem test_ord_index : answer (withOutput manText) 0x25000004 0 = rsp 9 4 := by decide

/-- ELUT in full (95_test_vectors.md table T). -/
theorem test_elut : (List.range 64).map (fun v => (elut (BitVec.ofNat 6 v)).toNat) =
    [0x41, 0x42, 0x43, 0x44, 0x45, 0x46, 0x47, 0x48, 0x49, 0x4A, 0x4B, 0x4C, 0x4D, 0x4E, 0x4F, 0x50] ++
    [0x51, 0x52, 0x53, 0x54, 0x55, 0x56, 0x57, 0x58, 0x59, 0x5A, 0x61, 0x62, 0x63, 0x64, 0x65, 0x66] ++
    [0x67, 0x68, 0x69, 0x6A, 0x6B, 0x6C, 0x6D, 0x6E, 0x6F, 0x70, 0x71, 0x72, 0x73, 0x74, 0x75, 0x76] ++
    [0x77, 0x78, 0x79, 0x7A, 0x30, 0x31, 0x32, 0x33, 0x34, 0x35, 0x36, 0x37, 0x38, 0x39, 0x2B, 0x2F] := by decide +kernel
/-- 95_test_vectors.md X30. -/
theorem test_rdelut_index : answer State.reset 0x26000040 0 = rsp 9 0x40 := by decide
/-- DLUT, lines 20 to 7F (95_test_vectors.md table T). -/
theorem test_dlut : (List.range 96).map (fun k => (dlut (BitVec.ofNat 8 (0x20 + k))).toNat) =
    [0x00, 0x00, 0x00, 0x00, 0x00, 0x00, 0x00, 0x00, 0x00, 0x00, 0x00, 0x7E, 0x00, 0x00, 0x00, 0x7F] ++
    [0x74, 0x75, 0x76, 0x77, 0x78, 0x79, 0x7A, 0x7B, 0x7C, 0x7D, 0x00, 0x00, 0x00, 0x80, 0x00, 0x00] ++
    [0x00, 0x40, 0x41, 0x42, 0x43, 0x44, 0x45, 0x46, 0x47, 0x48, 0x49, 0x4A, 0x4B, 0x4C, 0x4D, 0x4E] ++
    [0x4F, 0x50, 0x51, 0x52, 0x53, 0x54, 0x55, 0x56, 0x57, 0x58, 0x59, 0x00, 0x00, 0x00, 0x00, 0x00] ++
    [0x00, 0x5A, 0x5B, 0x5C, 0x5D, 0x5E, 0x5F, 0x60, 0x61, 0x62, 0x63, 0x64, 0x65, 0x66, 0x67, 0x68] ++
    [0x69, 0x6A, 0x6B, 0x6C, 0x6D, 0x6E, 0x6F, 0x70, 0x71, 0x72, 0x73, 0x00, 0x00, 0x00, 0x00, 0x00] := by decide +kernel
/-- DLUT is 0 below 20 and from 80 on (95_test_vectors.md table T). -/
theorem test_dlut_zero : ∀ c : Byte, c < 0x20 ∨ 0x80 ≤ c → dlut c = 0 := by decide +kernel
/-- 95_test_vectors.md X31. -/
theorem test_rddlut_index : answer State.reset 0x27000100 0 = rsp 9 0x100 := by decide

/-! ### The placing of a command, as the host does it -/

theorem test_with_fetch_word : step (State.reset.withFetchWord 32 0x10000003) = exec (.ldkey 3 0) State.reset := rfl

/-! ### Witnesses: for each obligation with hypotheses, states and operands that meet them -/

theorem witness_decode_of_encode : (Instr.ldpos 65535 0xFFFFFFFF).wellFormed = true ∧ Instr.nop.wellFormed = true := by decide
theorem witness_encode_of_decode : decode 0x1200FFFF 5 = some (.ldpos 65535 5) ∧
    decode 0x21000000 0xFFFFFF41 = some (.ipush 0x41) := by decide
theorem witness_rows_disjoint : ∃ r ∈ opcodeTable, r.selects 0x2700FFFF = true := ⟨_, .tail _ (.tail _ (.tail _ (.tail _ (.tail _
  (.tail _ (.tail _ (.tail _ (.tail _ (.tail _ (.tail _ (.tail _ (.tail _ (.tail _ (.tail _ (.head _))))))))))))))), by decide⟩
/-- One word per case of IllegalWordsAreThreeCases, at the edges of the opcode ranges. -/
theorem witness_illegal_words : IllegalWord 0x03000000 ∧ IllegalWord 0x0F000000 ∧ IllegalWord 0x15000000 ∧
    IllegalWord 0x1F000000 ∧ IllegalWord 0x28000000 ∧ IllegalWord 0xFF000000 ∧ IllegalWord 0x00010000 ∧
    IllegalWord 0x27FF0000 ∧ IllegalWord 0x00000001 ∧ IllegalWord 0x2400FFFF :=
  ⟨.inl (by decide), .inl (by decide), .inl (by decide), .inl (by decide), .inl (by decide), .inl (by decide),
    .inr (.inl (by decide)), .inr (.inl (by decide)), .inr (.inr (by decide)), .inr (.inr (by decide))⟩
theorem witness_legal_word_index : ¬ IllegalWord 0x10000008 ∧ decode 0x10000008 0 = some (.ldkey 8 0) ∧
    State.reset.indexOutOfRange (.ldkey 8 0) = true ∧ State.reset.indexOutOfRange (.ldkey 7 0) = false := by decide
/-- A pending command, as the statements about steps assume it. -/
theorem witness_pending : ({ State.reset with pending := [.command 0x14000010 0] } : State).pending =
    .command 0x14000010 0 :: [] := rfl
theorem witness_operands_plain : decode 0x13000000 1 = some .gen ∧ (∀ n w, Instr.gen ≠ .ldkey n w ∧ Instr.gen ≠ .ldsid n w ∧
    Instr.gen ≠ .ldpos n w) ∧ ∀ b, Instr.gen ≠ .ipush b := ⟨by decide, by simp, by simp⟩
theorem witness_operands_ipush : decode 0x21000000 0x12345641 = some (.ipush 0x41) ∧
    (0x41 : Word).toNat % 2 ^ 8 = (0x12345641 : Word).toNat % 2 ^ 8 := by decide
theorem witness_operands_words : decode 0x10000007 5 = some (.ldkey 7 5) ∧ decode 0x11000001 5 = some (.ldsid 1 5) ∧
    decode 0x12000001 5 = some (.ldpos 1 5) := by decide
theorem witness_step_runs : decode 0x1400000F 0 = some (.rdx 15) ∧ (Instr.rdx 15).wellFormed = true ∧
    decodeTableWord 32 0x1400000F = some (.rdx 15) ∧ State.reset.pending = [] := by decide
theorem witness_reset_event : ({ State.reset with pending := [.reset] } : State).pending = .reset :: [] ∧
    ({ State.reset with pending := [.cutByReset 0x13000000 0] } : State).pending = .cutByReset 0x13000000 0 :: [] := ⟨rfl, rfl⟩
theorem witness_step_next : ∃ t, step { State.reset with pending := [.command 0x14000010 0] } = .next t ∧
    State.Inv { State.reset with pending := [.command 0x14000010 0] } := ⟨_, rfl, by decide⟩
/-- ErrorConditionsAndInformation: a command of each error, at the bounds. -/
theorem witness_errors : (∃ t, runCommand 0x03000000 0 State.reset = .next t ∧ t.responses = State.reset.responses ++ [⟨8, 0x03000000⟩]) ∧
    (∃ t, runCommand 0x01000004 0 State.reset = .next t ∧ t.responses = State.reset.responses ++ [⟨9, 4⟩]) ∧
    (∃ t, runCommand 0x21000000 0 fullOfThree = .next t ∧ t.responses = fullOfThree.responses ++ [⟨10, 3⟩]) ∧
    (∃ t, runCommand 0x23000000 0 (withInput man) = .next t ∧ t.responses = (withInput man).responses ++ [⟨2, 3⟩]) ∧
    ∃ t, runCommand 0x23000000 0 (withInput [0x54, 0x57, 0x3D, 0x75]) = .next t ∧
      t.responses = (withInput [0x54, 0x57, 0x3D, 0x75]).responses ++ [⟨3, 2⟩] :=
  ⟨⟨_, rfl, rfl⟩, ⟨_, rfl, rfl⟩, ⟨_, rfl, rfl⟩, ⟨_, rfl, rfl⟩, ⟨_, rfl, rfl⟩⟩
theorem witness_failed_command : ∃ t r, runCommand 0x14000010 0 State.reset = .next t ∧
    t.responses = State.reset.responses ++ [r] ∧ r.err ≠ 0 := ⟨_, ⟨9, 0x10⟩, rfl, by decide, by decide⟩
theorem witness_admissible : (⟨.posFirst, 1, 0⟩ : Config).wf ∧ (⟨.sidFirst, 49149, 0⟩ : Config).wf ∧
    ¬ (⟨.sidFirst, 49150, 0⟩ : Config).wf := by decide
/-- CommandsWriteOnlyTheirRow: one changed piece of state per clause. -/
theorem witness_changed : (∃ t, exec (.ldkey 7 1) State.reset = .next t ∧ t.key[7] ≠ State.reset.key[7]) ∧
    (∃ t, exec (.ldsid 1 1) State.reset = .next t ∧ t.sid[1] ≠ State.reset.sid[1]) ∧
    (∃ t, exec (.ldpos 1 1) State.reset = .next t ∧ t.pos[1] ≠ State.reset.pos[1]) ∧
    (∃ t, exec (.ipush 1) State.reset = .next t ∧ t.ibuf ≠ State.reset.ibuf) ∧
    ∃ t, exec .enc (withInput man) = .next t ∧ t.obuf ≠ (withInput man).obuf :=
  ⟨⟨_, rfl, by decide⟩, ⟨_, rfl, by decide⟩, ⟨_, rfl, by decide⟩, ⟨_, rfl, by decide⟩, ⟨_, rfl, by decide⟩⟩
theorem witness_changed_block : ∃ t, exec .gen State.reset = .next t ∧ t.x[0] ≠ State.reset.x[0] := ⟨_, rfl, by decide +kernel⟩
theorem witness_units_g : unitOf (.rdx 0) = 1 ∧ (withInput man).cfg = State.reset.cfg ∧ SameUnitG State.reset (withInput man) ∧
    (∃ t, exec (.rdx 0) State.reset = .next t) ∧ ∃ t, exec (.rdx 0) (withInput man) = .next t :=
  ⟨rfl, rfl, by decide, ⟨_, rfl⟩, ⟨_, rfl⟩⟩
theorem witness_units_b : unitOf .enc = 2 ∧ (operandsG1 .sidFirst).cfg = State.reset.cfg ∧
    SameUnitB State.reset (operandsG1 .sidFirst) ∧ (∃ t, exec .enc State.reset = .next t) ∧
    ∃ t, exec .enc (operandsG1 .sidFirst) = .next t := ⟨rfl, rfl, by decide, ⟨_, rfl⟩, ⟨_, rfl⟩⟩
theorem witness_repeating : (∀ b, Instr.enc ≠ .ipush b) ∧ ∃ t u, exec .enc (withInput man) = .next t ∧ exec .enc t = .next u :=
  ⟨by simp, _, _, rfl, rfl⟩
/-- The reset state with the commands LDKEY 0, 7 and RDX 0 to come. -/
def loadThenRead : State := { State.reset with pending := [.command 0x10000000 7, .command 0x14000000 0] }
/-- OperandRegistersAreNotReturned: two states with different keys and a run of two commands without GEN. -/
theorem witness_agreement :
    let s' : State := { loadThenRead with key := loadThenRead.key.set 3 5 }
    AgreeButOperands loadThenRead s' ∧ loadThenRead.key ≠ s'.key ∧ NoGenPending loadThenRead ∧
      (∃ t, Sys2Proof.core.run 2 loadThenRead = .next t) ∧ ∃ t, Sys2Proof.core.run 2 s' = .next t := by
  refine ⟨by decide, by decide, ?_, ⟨_, rfl⟩, ⟨_, rfl⟩⟩
  intro cw wd h
  simp [loadThenRead] at h
  rcases h with ⟨rfl, rfl⟩ | ⟨rfl, rfl⟩ <;> decide
theorem witness_run : ∃ t, Sys2Proof.core.run 1 { State.reset with pending := [.command 0x13000000 0] } = .next t ∧
    t.responses.length = 1 := ⟨_, rfl, rfl⟩
/-- PlainRow and IndexedRow: a word on each side of the condition. -/
theorem witness_rows : opField 0x13000000 = 0x13 ∧ opField 0x13800000 = 0x13 ∧ (0x13800000 : Word).toNat % 2 ^ 24 ≠ 0 ∧
    opField 0x1400FFFF = 0x14 ∧ (0x1400FFFF : Word).toNat / 2 ^ 16 % 2 ^ 8 = 0 ∧
    opField 0x14010000 = 0x14 ∧ (0x14010000 : Word).toNat / 2 ^ 16 % 2 ^ 8 ≠ 0 := by decide
theorem witness_rotation : 0 < 7 ∧ 7 < 32 ∧ (rotl32 1 7).getLsbD 7 = (1 : Word).getLsbD ((7 + 32 - 7) % 32) := by decide
theorem witness_distinct : [0, 4, 8, (12 : Fin 16)].Nodup ∧ (15 : Fin 16) ∉ [0, 4, 8, (12 : Fin 16)] ∧
    [0, 4, 8, 12, 3, 7, 11, (15 : Fin 16)].Nodup := by decide
theorem witness_matrix : matrixWord (Vector.ofFn fun k : Fin 16 => BitVec.ofNat 32 k) 3 (3 + 3) = 14 := by decide
theorem witness_same_state : initState .posFirst (operandsG1 .posFirst).key (operandsG1 .posFirst).sid (operandsG1 .posFirst).pos =
    initState .posFirst (operandsG1 .sidFirst).key (operandsG1 .sidFirst).sid (operandsG1 .sidFirst).pos := by decide
/-- TablesAreInverse: the ends of the three ranges, and a character outside. -/
theorem witness_elut_ranges : elut 0 = 0x41 ∧ elut 25 = 0x5A ∧ elut 26 = 0x61 ∧ elut 51 = 0x7A ∧ elut 52 = 0x30 ∧
    elut 61 = 0x39 ∧ (0x5F : Byte) ≠ 0x3D ∧ ∀ v : BitVec 6, elut v ≠ 0x5F := by decide +kernel
/-- EncodeByIndex: "Manfoo" and its two shorter forms; the second group, in each clause. -/
theorem witness_encode_groups : (man ++ man)[3 * 1 + 2]? = some 0x6E ∧ (man ++ [0x66]).length = 3 * 1 + 1 ∧
    (man ++ [0x66])[3 * 1]? = some 0x66 ∧ (man ++ [0x66, 0x6F]).length = 3 * 1 + 2 ∧
    (man ++ [0x66, 0x6F])[3 * 1 + 1]? = some 0x6F := by decide
/-- The three results of DECODE_CHECK, and an offender. -/
theorem witness_check_results : decodeCheck manText = .ok ∧ decodeCheck man = .badLength 3 ∧
    decodeCheck [0x54, 0x57, 0x3D, 0x75] = .badCharacter 2 ∧ decodeCheck [] = .ok := by decide
theorem witness_offender : Offends [0x54, 0x57, 0x3D, 0x75] 2 ∧ ∀ j, j < 2 → ¬ Offends [0x54, 0x57, 0x3D, 0x75] j := by
  constructor
  · exact ⟨0x3D, rfl, .inr ⟨by decide, by decide, by rintro ⟨-, d, hd, hp⟩; simp at hd; subst hd; revert hp; decide⟩⟩
  · intro j hj
    match j, hj with
    | 0, _ => rintro ⟨c, hc, h⟩; simp at hc; subst hc; revert h; decide
    | 1, _ => rintro ⟨c, hc, h⟩; simp at hc; subst hc; revert h; decide
/-- DecodeByIndex: the last quantum of "TWFuTWE=", with k = 1. -/
theorem witness_decode_quantum : decodeCheck (manText ++ [0x54, 0x57, 0x45, 0x3D]) = .ok ∧
    trailingPads (manText ++ [0x54, 0x57, 0x45, 0x3D]) = 1 ∧
    (manText ++ [0x54, 0x57, 0x45, 0x3D])[4 * 1 + 3]? = some 0x3D ∧
    ([0x54, 0x57, 0x45, 0x3D].filter fun e : Byte => decide (e = 0x3D)).length = 1 := by decide
theorem witness_encoder_output : (withInput manText).ibuf = b64Encode man ∧ (0x54 : Byte) ∈ b64Encode man := by decide
theorem witness_capacity : (⟨.sidFirst, 3, 0⟩ : Config).wf ∧ man.length ≤ 3 := by decide
/-- InputBufferEffect: the empty and the full buffer of an instance with NB = 3. -/
theorem witness_input_buffer : fullOfThree.clear.ibuf.length ≠ fullOfThree.clear.cfg.nb ∧
    fullOfThree.ibuf.length = fullOfThree.cfg.nb := by decide
theorem witness_classes : (∀ c ∈ (withInput manText).ibuf, charClass c ≠ .invalid) ∧
    (∃ c ∈ (withInput [0x54, 0x57, 0x5F, 0x75]).ibuf, charClass c = .invalid) :=
  ⟨by decide, 0x5F, by decide, by decide⟩
/-- OrdEffect and the table reads: the last index below and the first index at each bound. -/
theorem witness_index_bounds : (withOutput manText).obuf[3]? = some 0x75 ∧ (withOutput manText).obuf.length ≤ 4 ∧
    State.reset.indexBound? (.rdsr 0) = some 4 ∧ State.reset.indexBound? (.ldkey 0 0) = some 8 ∧
    State.reset.indexBound? (.ldsid 0 0) = some 2 ∧ State.reset.indexBound? (.ldpos 0 0) = some 2 ∧
    State.reset.indexBound? (.rdx 0) = some 16 ∧ (withOutput manText).indexBound? (.ord 0) = some 4 ∧
    State.reset.indexBound? (.rdelut 0) = some 64 ∧ State.reset.indexBound? (.rddlut 0) = some 256 := by decide
theorem witness_encode_contract : fullOfThree.cfg.wf ∧ man.length ≤ fullOfThree.cfg.nb := by decide
/-- "ab#d": one offending character, at index 2. -/
def oneOffender : List Byte := [0x61, 0x62, 0x23, 0x64]
/-- "ab##": the same first offending character, and a second. -/
def twoOffenders : List Byte := [0x61, 0x62, 0x23, 0x23]
/-- LatencyDependence: texts of one length that agree on the first offending position and not on the second. -/
theorem witness_latency_offenders : (withInput twoOffenders).ibuf.length = (withInput oneOffender).ibuf.length ∧
    (∀ j, FirstOffends (withInput oneOffender).ibuf j ↔ FirstOffends (withInput twoOffenders).ibuf j) ∧
    (∀ j, FirstInvalidAt (withInput oneOffender).ibuf j ↔ FirstInvalidAt (withInput twoOffenders).ibuf j) ∧
    InvalidAt twoOffenders 3 ∧ ¬ InvalidAt oneOffender 3 := by
  have hoff : firstOffender (withInput oneOffender).ibuf = firstOffender (withInput twoOffenders).ibuf := by decide
  have hinv : firstInvalid (withInput oneOffender).ibuf = firstInvalid (withInput twoOffenders).ibuf := by decide
  refine ⟨rfl, fun j => ?_, fun j => ?_, ⟨0x23, rfl, by decide⟩, ?_⟩
  · rw [← firstOffender_eq_some_iff, ← firstOffender_eq_some_iff, hoff]
  · rw [← firstInvalid_eq_some_iff, ← firstInvalid_eq_some_iff, hinv]
  · rintro ⟨c, hc, h⟩
    cases hc
    revert h
    decide
/-- LatencyDependence: an illegal word, an index error in two states, and one of ORD with equal OLEN. -/
theorem witness_latency_errors : decode 0x03000000 0 = none ∧ decode 0x10000008 5 = some (.ldkey 8 5) ∧
    State.reset.indexOutOfRange (.ldkey 8 5) = true ∧ fullOfThree.indexOutOfRange (.ldkey 8 5) = true ∧
    decode 0x25000004 0 = some (.ord 4) ∧ (withOutput manText).indexOutOfRange (.ord 4) = true := by decide

/-- An edge at which the host presents GEN and does not accept a response. -/
def presentGen : PortIn := { rstN := true, cmdValid := true, cmdWord := 0x13000000, cmdWdata := 0, rspReady := false }

/-- A port state that presents the response of a NOP. -/
def responding : PortState := { block := State.reset, phase := .responding 0 0 (State.reset.respond 0) }

theorem witness_port_holds : responding.rspValid = true ∧ responding.cmdReady = false ∧
    (∀ i ∈ [presentGen], i.rstN = true ∧ i.rspReady = false) := by decide
/-- An edge at a ready block that accepts GEN: the command is then in flight. -/
theorem witness_port_accepts : ∃ q, ({ block := State.reset, phase := .ready } : PortState).clock presentGen = .next q ∧
    presentGen.rstN = true ∧ presentGen.cmdValid = true := by
  rcases ({ block := State.reset, phase := .ready } : PortState).executeAfter_cases presentGen.cmdWord presentGen.cmdWdata
    (latency presentGen.cmdWord presentGen.cmdWdata State.reset) with ⟨_, _, h⟩ | ⟨_, _, _, h⟩ <;>
    exact ⟨_, (PortState.clock_of_accept rfl rfl rfl).trans h, rfl, rfl⟩
/-- A command in flight in each of its two phases, at an edge that does not deliver. -/
theorem witness_port_in_flight : responding.InFlight 0 0 ∧ ¬ (responding.rspValid = true ∧ presentGen.rspReady = true) ∧
    ({ block := State.reset, phase := .executing 0x13000000 0 2 } : PortState).InFlight 0x13000000 0 ∧
    ({ block := State.reset, phase := .executing 0x13000000 0 2 } : PortState).rspValid = false :=
  ⟨⟨rfl, rfl⟩, by decide, ⟨rfl, rfl⟩, rfl⟩
/-- PortResetAbandonsCommand: an edge with reset, and later edges at which the host presents nothing. -/
theorem witness_port_reset : ({ presentGen with rstN := false } : PortIn).rstN = false ∧
    ∀ j ∈ List.replicate 3 ({ presentGen with cmdValid := false } : PortIn), j.cmdValid = false := by decide
theorem witness_port_inv : responding.Inv ∧ PortState.reset.Inv ∧
    ({ block := withInput man, phase := .ready } : PortState).Inv := ⟨rfl, rfl, trivial⟩
theorem witness_port_answers :
    ∃ is : List PortIn, (∀ j ∈ is, j.rstN = true) ∧
      is.length = latency presentGen.cmdWord presentGen.cmdWdata State.reset ∧ presentGen.rstN = true ∧
      presentGen.cmdValid = true ∧ ({ block := State.reset, phase := .ready } : PortState).phase = .ready :=
  ⟨List.replicate (latency presentGen.cmdWord presentGen.cmdWdata State.reset) presentGen,
    fun _ h => (List.eq_of_mem_replicate h) ▸ rfl, List.length_replicate, rfl, rfl, rfl⟩
/-- PortRefinesTransactions: a delivering edge, and one that delivers nothing. -/
theorem witness_port_delivery : responding.Inv ∧ responding.rspValid = true ∧
    ({ presentGen with rspReady := true } : PortIn).rstN = true ∧
    ¬ (PortState.reset.rspValid = true ∧ presentGen.rspReady = true) := ⟨rfl, rfl, rfl, by decide⟩
/-- ResultsDependOnInputsAlone: two states with the same operands of GEN and of the codec, and nothing else in common. -/
theorem witness_same_inputs :
    let s := operandsG1 .posFirst
    let s' : State := { s with cfg := ⟨.posFirst, 3, 0⟩, x := s.x.set 0 1, obuf := manText, responses := [⟨9, 4⟩] }
    s'.cfg.slotMap = s.cfg.slotMap ∧ s'.key = s.key ∧ s'.sid = s.sid ∧ s'.pos = s.pos ∧ s'.ibuf = s.ibuf ∧
      s'.cfg ≠ s.cfg ∧ s'.x ≠ s.x ∧ s'.obuf ≠ s.obuf ∧ s'.responses ≠ s.responses := by decide
/-- A NOP response is delivered at an edge where the host accepts it: the block then holds the state after the NOP. -/
theorem test_port_delivers : (match responding.clock { presentGen with rspReady := true } with
    | .next q => some q.block | .fault _ => none | .refused _ => none) = some (State.reset.respond 0) := rfl

end Sys2Proof.Tests
end

/-! ## Proofs of the family 00_scope.md -/

/-! ### Steps (00_scope.md R4) -/

section
open Sys2Proof Sys2Proof.Machine

namespace Sys2Proof.Machine

/-- A decoded command at the head of the coming events is run by the next step. -/
theorem step_of_command {cw wd : Word} {i : Instr} {s : State} {rest : List HostEvent}
    (hp : s.pending = .command cw wd :: rest) (hd : decode cw wd = some i) :
    step s = exec i { s with pending := rest } := by
  rw [step_of_cons hp, runEvent, runCommand_of_some hd]

end Sys2Proof.Machine

namespace Sys2Proof.Proofs

/-- Settles O7: a step takes the head event off and runs its decoded command; placing a word only adds a head event. -/
theorem stepRunsDecodedCommand : Obligations.StepRunsDecodedCommand :=
  ⟨fun _ _ _ _ _ hp hd _ => step_of_command hp hd,
    fun w _ s hd => step_of_command (s := s.withFetchWord 32 w) rfl hd,
    fun _ => step_of_nil⟩

/-- Settles O9: an idle step keeps the state, and every host event answers. -/
theorem everyStepAnswers : Obligations.EveryStepAnswers := by
  intro s
  cases hp : s.pending with
  | nil => exact ⟨s, step_of_nil hp⟩
  | cons e rest => exact step_cons_answers hp

end Sys2Proof.Proofs
end

/-! ### The output buffer is large enough (00_scope.md R6) -/

section
open Sys2Proof Sys2Proof.Machine

namespace Sys2Proof.Machine

/-- ENCODE writes `4 * ceil(n / 3)` characters for `n` bytes. -/
theorem b64Encode_length (b : List Byte) : (b64Encode b).length = 4 * ((b.length + 2) / 3) := by
  induction b using threes_induction with
  | nil => simp
  | one a => simp [b64Encode_one]
  | two a b => simp [b64Encode_two]
  | group a b c rest ih =>
    simp only [b64Encode_group, List.length_append, List.length_cons, List.length_nil, ih]
    omega

/-- Fewer than four characters decode to nothing. -/
theorem b64Decode_of_short {t : List Byte} (h : t.length < 4) : b64Decode t = [] := by
  unfold b64Decode
  split
  · simp only [List.length_cons] at h
    omega
  · rfl

/-- DECODE gives at most three bytes for every four characters. -/
theorem b64Decode_length_le (t : List Byte) : 4 * (b64Decode t).length ≤ 3 * t.length := by
  induction t using fours_induction with
  | short t ht => simp [b64Decode_of_short ht]
  | quantum a b c d rest ih =>
    have hq := (decodeQuantum_length a b c d).2
    simp only [b64Decode_quantum, List.length_append, List.length_cons]
    omega

end Sys2Proof.Machine

namespace Sys2Proof

/-- The rounding up in OB is the ceiling of a rational (00_scope.md R6). -/
theorem Config.ob_eq_ceil (c : Config) : c.ob = 4 * ⌈(c.nb : ℚ) / 3⌉₊ := by
  have hceil : ⌈(c.nb : ℚ) / (3 : ℕ)⌉ = -(-(c.nb : ℤ) / (3 : ℕ)) := Rat.ceil_natCast_div_natCast c.nb 3
  have hnat : ⌈(c.nb : ℚ) / 3⌉₊ = (c.nb + 2) / 3 := by
    rw [← Int.ceil_toNat]
    push_cast at hceil
    omega
  rw [hnat, Config.ob]

theorem Config.nb_le_ob (c : Config) : c.nb ≤ c.ob := by
  unfold Config.ob
  omega

theorem Config.ob_le {c : Config} (h : c.wf) : c.ob ≤ 65532 := by
  obtain ⟨-, hnb⟩ := h
  unfold Config.ob
  omega

/-- The encoding of at most NB bytes fits OBUF. -/
theorem Config.b64Encode_fits {c : Config} {b : List Byte} (h : b.length ≤ c.nb) :
    (Machine.b64Encode b).length ≤ c.ob := by
  rw [Machine.b64Encode_length, Config.ob]
  omega

/-- The decoding of at most NB characters fits OBUF. -/
theorem Config.b64Decode_fits {c : Config} {t : List Byte} (h : t.length ≤ c.nb) :
    (Machine.b64Decode t).length ≤ c.ob := by
  have hdec := Machine.b64Decode_length_le t
  have hob := c.nb_le_ob
  omega

end Sys2Proof

namespace Sys2Proof.Proofs

/-- Settles O45, by the length laws of ENCODE and DECODE. -/
theorem outputNeverOverflows : Obligations.OutputNeverOverflows := fun c hc =>
  ⟨c.ob_eq_ceil, Config.ob_le hc, c.nb_le_ob, fun _ => Config.b64Encode_fits,
    fun t ht => ⟨b64Decode_length_le t, Config.b64Decode_fits ht⟩⟩

end Sys2Proof.Proofs
end

/-! ### ENC, DEC and VAL are functions of IBUF (00_scope.md R3) -/

section
open Sys2Proof Sys2Proof.Machine

namespace Sys2Proof.Machine

/-! DEC by the outcome of DECODE_CHECK. -/

theorem exec_dec_of_badLength {s : State} {n : Nat} (h : decodeCheck s.ibuf = .badLength n) :
    exec .dec s = .next (s.raise .invalidBase64Length (zextNat n)) := by
  simp only [exec, execDec, h]

theorem exec_dec_of_badCharacter {s : State} {n : Nat} (h : decodeCheck s.ibuf = .badCharacter n) :
    exec .dec s = .next (s.raise .invalidBase64Character (zextNat n)) := by
  simp only [exec, execDec, h]

theorem exec_dec_of_ok {s : State} (h : decodeCheck s.ibuf = .ok) :
    exec .dec s = .next ((s.setOutput (b64Decode s.ibuf)).respond (zextNat (b64Decode s.ibuf).length)) := by
  simp only [exec, execDec, h, State.olen, State.setOutput_obuf]

/-- The input bytes `b` alone fix the response `r` of the command and what it writes to OBUF, `none` where it writes nothing. -/
def FixedByInput (i : Instr) (b : List Byte) (r : Response) (out : Option (List Byte)) : Prop :=
  ∀ s : State, s.ibuf = b →
    exec i s = .next { s with obuf := out.getD s.obuf, responses := s.responses ++ [r] }

theorem enc_fixedByInput (b : List Byte) :
    FixedByInput .enc b ⟨0, zextNat (b64Encode b).length⟩ (some (b64Encode b)) := by
  rintro s rfl
  rfl

theorem val_fixedByInput (b : List Byte) : FixedByInput .val b ⟨0, if b64Valid b then 1 else 0⟩ none := by
  rintro s rfl
  rfl

/-- DEC writes OBUF wherever it does not raise an error. -/
theorem dec_fixedByInput (b : List Byte) :
    ∃ r out, FixedByInput .dec b r out ∧ (r.err = 0 → out = some (b64Decode b)) := by
  cases h : decodeCheck b with
  | ok =>
    refine ⟨⟨0, zextNat (b64Decode b).length⟩, some (b64Decode b), ?_, fun _ => rfl⟩
    rintro s rfl
    exact exec_dec_of_ok h
  | badLength n =>
    refine ⟨⟨2, zextNat n⟩, none, ?_, by simp⟩
    rintro s rfl
    exact exec_dec_of_badLength h
  | badCharacter n =>
    refine ⟨⟨3, zextNat n⟩, none, ?_, by simp⟩
    rintro s rfl
    exact exec_dec_of_badCharacter h

/-- The three codec commands; ENC and DEC write OBUF wherever they succeed. -/
theorem codec_fixedByInput {i : Instr} (hi : i = .enc ∨ i = .dec ∨ i = .val) (b : List Byte) :
    ∃ r out, FixedByInput i b r out ∧ (i ≠ .val → r.err = 0 → ∃ o, out = some o) := by
  obtain rfl | rfl | rfl := hi
  · exact ⟨_, _, enc_fixedByInput b, fun _ _ => ⟨_, rfl⟩⟩
  · obtain ⟨r, out, hfix, hout⟩ := dec_fixedByInput b
    exact ⟨r, out, hfix, fun _ hr => ⟨_, hout hr⟩⟩
  · exact ⟨_, _, val_fixedByInput b, fun hne => absurd rfl hne⟩

/-- What GEN leaves, as the block of its four inputs (41_chacha.md R83). -/
theorem exec_gen (s : State) :
    exec .gen s = .next ((s.setX (generate s.cfg.slotMap s.key s.sid s.pos)).respond 0) := rfl

end Sys2Proof.Machine

namespace Sys2Proof.Proofs

/-- Settles O59: GEN leaves `generate` of its four inputs, and the input bytes fix what the codec commands answer and write. -/
theorem resultsDependOnInputsAlone : Obligations.ResultsDependOnInputsAlone := by
  intro s s'
  constructor
  · intro hm hk hs hp
    exact ⟨_, _, exec_gen s, exec_gen s', by simp only [State.respond_x, State.setX_x, hm, hk, hs, hp]⟩
  · intro hb i hi
    obtain ⟨r, out, hfix, hout⟩ := codec_fixedByInput hi s.ibuf
    refine ⟨_, _, r, hfix s rfl, hfix s' hb, rfl, rfl, fun hne hr => ?_⟩
    obtain ⟨o, rfl⟩ := hout hne hr
    rfl

end Sys2Proof.Proofs
end

/-! ### Each command stays inside its unit (00_scope.md R2) -/

section
open Sys2Proof Sys2Proof.Machine

namespace Sys2Proof.Machine

/-- What `f` writes to unit G and the response it delivers are the same in all states with the same configuration and the same
unit G, and it changes nothing else. -/
def InsideUnitG (f : State → Host.Outcome State Fault Refusal) : Prop :=
  ∀ s : State, ∃ (key : Vector Word 8) (sid pos : Vector Word 2) (x : Vector Word 16) (r : Response),
    ∀ u : State, u.cfg = s.cfg → SameUnitG s u →
      f u = .next { u with key := key, sid := sid, pos := pos, x := x, responses := u.responses ++ [r] }

/-- What `f` writes to unit B and the response it delivers are the same in all states with the same configuration and the same
unit B, and it changes nothing else. -/
def InsideUnitB (f : State → Host.Outcome State Fault Refusal) : Prop :=
  ∀ s : State, ∃ (ibuf obuf : List Byte) (r : Response),
    ∀ u : State, u.cfg = s.cfg → SameUnitB s u →
      f u = .next { u with ibuf := ibuf, obuf := obuf, responses := u.responses ++ [r] }

/-! #### The commands of unit G -/

/-- It is enough to run `f` on `s` with anything in place of what lies outside unit G and the configuration. -/
theorem insideUnitG_of_replaced {f : State → Host.Outcome State Fault Refusal}
    (h : ∀ s : State, ∃ key sid pos x r, ∀ ibuf obuf pending responses,
      f { s with ibuf := ibuf, obuf := obuf, pending := pending, responses := responses } =
        .next ⟨s.cfg, key, sid, pos, x, ibuf, obuf, pending, responses ++ [r]⟩) : InsideUnitG f := by
  intro s
  obtain ⟨key, sid, pos, x, r, hrun⟩ := h s
  refine ⟨key, sid, pos, x, r, ?_⟩
  rintro u hc ⟨hk, hs, hp, hx⟩
  have hu := hrun u.ibuf u.obuf u.pending u.responses
  rw [← hc, ← hk, ← hs, ← hp, ← hx] at hu
  exact hu

/-- The index check stays inside unit G, for an index space of fixed size, where the checked command does. -/
theorem insideUnitG_withIndex {idx bound : Nat} {body : State → Fin bound → State}
    (hbody : ∀ j, InsideUnitG fun s => .next (body s j)) :
    InsideUnitG fun s => .next (s.withIndex idx bound (body s)) := by
  by_cases h : idx < bound
  · simpa only [State.withIndex_of_lt h] using hbody ⟨idx, h⟩
  · simp only [State.withIndex_of_le (Nat.not_lt.mp h)]
    exact insideUnitG_of_replaced fun s =>
      ⟨s.key, s.sid, s.pos, s.x, ⟨9, zextNat idx⟩, fun _ _ _ _ => rfl⟩

theorem ldkey_insideUnitG (idx : Nat) (wd : Word) : InsideUnitG (exec (.ldkey idx wd)) :=
  insideUnitG_withIndex fun j => insideUnitG_of_replaced fun s =>
    ⟨s.key.set j wd, s.sid, s.pos, s.x, ⟨0, 0⟩, fun _ _ _ _ => rfl⟩

theorem ldsid_insideUnitG (idx : Nat) (wd : Word) : InsideUnitG (exec (.ldsid idx wd)) :=
  insideUnitG_withIndex fun j => insideUnitG_of_replaced fun s =>
    ⟨s.key, s.sid.set j wd, s.pos, s.x, ⟨0, 0⟩, fun _ _ _ _ => rfl⟩

theorem ldpos_insideUnitG (idx : Nat) (wd : Word) : InsideUnitG (exec (.ldpos idx wd)) :=
  insideUnitG_withIndex fun j => insideUnitG_of_replaced fun s =>
    ⟨s.key, s.sid, s.pos.set j wd, s.x, ⟨0, 0⟩, fun _ _ _ _ => rfl⟩

theorem gen_insideUnitG : InsideUnitG (exec .gen) :=
  insideUnitG_of_replaced fun s =>
    ⟨s.key, s.sid, s.pos, generate s.cfg.slotMap s.key s.sid s.pos, ⟨0, 0⟩, fun _ _ _ _ => rfl⟩

theorem rdx_insideUnitG (idx : Nat) : InsideUnitG (exec (.rdx idx)) :=
  insideUnitG_withIndex fun j => insideUnitG_of_replaced fun s =>
    ⟨s.key, s.sid, s.pos, s.x, ⟨0, s.x[j]⟩, fun _ _ _ _ => rfl⟩

/-- The commands whose opcode has the high nibble of unit G (30_encoding.md R54). -/
theorem unitOf_eq_one_iff (i : Instr) : unitOf i = 1 ↔
    (∃ idx wd, i = .ldkey idx wd ∨ i = .ldsid idx wd ∨ i = .ldpos idx wd) ∨ i = .gen ∨ ∃ idx, i = .rdx idx := by
  cases i <;> simp [unitOf, opcode]

theorem exec_insideUnitG {i : Instr} (h : unitOf i = 1) : InsideUnitG (exec i) := by
  obtain ⟨idx, wd, rfl | rfl | rfl⟩ | rfl | ⟨idx, rfl⟩ := (unitOf_eq_one_iff i).mp h
  · exact ldkey_insideUnitG idx wd
  · exact ldsid_insideUnitG idx wd
  · exact ldpos_insideUnitG idx wd
  · exact gen_insideUnitG
  · exact rdx_insideUnitG idx

/-! #### The commands of unit B -/

/-- The response of an indexed read of the values `v` (60_exceptions.md R131, R132). -/
def indexedAnswer (idx bound : Nat) (v : Fin bound → Word) : Response :=
  if h : idx < bound then ⟨0, v ⟨idx, h⟩⟩ else ⟨9, zextNat idx⟩

/-- An indexed read delivers its answer and does nothing else. -/
theorem State.withIndex_respond (s : State) (idx bound : Nat) (v : Fin bound → Word) :
    s.withIndex idx bound (fun j => s.respond (v j)) =
      { s with responses := s.responses ++ [indexedAnswer idx bound v] } := by
  unfold indexedAnswer
  by_cases h : idx < bound
  · rw [State.withIndex_of_lt h, dif_pos h]
    rfl
  · rw [State.withIndex_of_le (Nat.not_lt.mp h), dif_neg h]
    rfl

/-- A command that only delivers an answer computed from OBUF stays inside unit B. -/
theorem insideUnitB_of_answer {f : State → Host.Outcome State Fault Refusal} {answer : List Byte → Response}
    (h : ∀ u, f u = .next { u with responses := u.responses ++ [answer u.obuf] }) : InsideUnitB f := by
  refine fun s => ⟨s.ibuf, s.obuf, answer s.obuf, ?_⟩
  rintro u - ⟨hi, ho⟩
  rw [h, ← hi, ← ho]

/-- A command that the input bytes fix stays inside unit B. -/
theorem insideUnitB_of_codec {i : Instr} (hi : i = .enc ∨ i = .dec ∨ i = .val) : InsideUnitB (exec i) := by
  intro s
  obtain ⟨r, out, hfix, -⟩ := codec_fixedByInput hi s.ibuf
  refine ⟨s.ibuf, out.getD s.obuf, r, ?_⟩
  rintro u - ⟨hb, ho⟩
  rw [hfix u hb, ← hb, ← ho]

theorem iclr_insideUnitB : InsideUnitB (exec .iclr) := by
  refine fun s => ⟨[], s.obuf, ⟨0, 0⟩, ?_⟩
  rintro u - ⟨-, ho⟩
  rw [← ho]
  rfl

theorem exec_ipush_of_full {s : State} (h : s.ilen = s.cfg.nb) (data : Byte) :
    exec (.ipush data) s = .next (s.raise .bufferFull (zextNat s.ilen)) :=
  congrArg Host.Outcome.next (if_pos h)

theorem exec_ipush_of_room {s : State} (h : s.ilen ≠ s.cfg.nb) (data : Byte) :
    exec (.ipush data) s = .next ((s.appendInput data).respond 0) :=
  congrArg Host.Outcome.next (if_neg h)

theorem ipush_insideUnitB (data : Byte) : InsideUnitB (exec (.ipush data)) := by
  intro s
  by_cases h : s.ibuf.length = s.cfg.nb
  · refine ⟨s.ibuf, s.obuf, ⟨10, zextNat s.ibuf.length⟩, ?_⟩
    rintro u hc ⟨hi, ho⟩
    rw [← hc, ← hi] at h
    rw [exec_ipush_of_full h, ← hi, ← ho]
    rfl
  · refine ⟨s.ibuf ++ [data], s.obuf, ⟨0, 0⟩, ?_⟩
    rintro u hc ⟨hi, ho⟩
    rw [← hc, ← hi] at h
    rw [exec_ipush_of_room h, ← hi, ← ho]
    rfl

theorem ord_insideUnitB (idx : Nat) : InsideUnitB (exec (.ord idx)) :=
  insideUnitB_of_answer (answer := fun o => indexedAnswer idx o.length fun j => zextByte o[j]) fun u =>
    congrArg Host.Outcome.next (u.withIndex_respond idx _ _)

theorem rdelut_insideUnitB (idx : Nat) : InsideUnitB (exec (.rdelut idx)) :=
  insideUnitB_of_answer (answer := fun _ => indexedAnswer idx 64 fun j => zextByte (elut (BitVec.ofNat 6 j))) fun u =>
    congrArg Host.Outcome.next (u.withIndex_respond idx _ _)

theorem rddlut_insideUnitB (idx : Nat) : InsideUnitB (exec (.rddlut idx)) :=
  insideUnitB_of_answer (answer := fun _ => indexedAnswer idx 256 fun j => zextByte (dlut (BitVec.ofNat 8 j))) fun u =>
    congrArg Host.Outcome.next (u.withIndex_respond idx _ _)

/-- The commands whose opcode has the high nibble of unit B (30_encoding.md R54). -/
theorem unitOf_eq_two_iff (i : Instr) : unitOf i = 2 ↔
    (i = .enc ∨ i = .dec ∨ i = .val) ∨ i = .iclr ∨ (∃ data, i = .ipush data) ∨
      ∃ idx, i = .ord idx ∨ i = .rdelut idx ∨ i = .rddlut idx := by
  cases i <;> simp [unitOf, opcode]

theorem exec_insideUnitB {i : Instr} (h : unitOf i = 2) : InsideUnitB (exec i) := by
  obtain hc | rfl | ⟨data, rfl⟩ | ⟨idx, rfl | rfl | rfl⟩ := (unitOf_eq_two_iff i).mp h
  · exact insideUnitB_of_codec hc
  · exact iclr_insideUnitB
  · exact ipush_insideUnitB data
  · exact ord_insideUnitB idx
  · exact rdelut_insideUnitB idx
  · exact rddlut_insideUnitB idx

/-! #### Frame and dependence -/

theorem InsideUnitG.sameUnitB {f : State → Host.Outcome State Fault Refusal} (hf : InsideUnitG f) {s t : State}
    (h : f s = .next t) : SameUnitB s t := by
  obtain ⟨key, sid, pos, x, r, hrun⟩ := hf s
  cases h.symm.trans (hrun s rfl ⟨rfl, rfl, rfl, rfl⟩)
  exact ⟨rfl, rfl⟩

theorem InsideUnitB.sameUnitG {f : State → Host.Outcome State Fault Refusal} (hf : InsideUnitB f) {s t : State}
    (h : f s = .next t) : SameUnitG s t := by
  obtain ⟨ibuf, obuf, r, hrun⟩ := hf s
  cases h.symm.trans (hrun s rfl ⟨rfl, rfl⟩)
  exact ⟨rfl, rfl, rfl, rfl⟩

theorem InsideUnitG.same_result {f : State → Host.Outcome State Fault Refusal} (hf : InsideUnitG f)
    {s s' t t' : State} (hc : s'.cfg = s.cfg) (hs : SameUnitG s s') (h : f s = .next t) (h' : f s' = .next t') :
    SameUnitG t t' ∧ ∃ r, t.responses = s.responses ++ [r] ∧ t'.responses = s'.responses ++ [r] := by
  obtain ⟨key, sid, pos, x, r, hrun⟩ := hf s
  cases h.symm.trans (hrun s rfl ⟨rfl, rfl, rfl, rfl⟩)
  cases h'.symm.trans (hrun s' hc hs)
  exact ⟨⟨rfl, rfl, rfl, rfl⟩, r, rfl, rfl⟩

theorem InsideUnitB.same_result {f : State → Host.Outcome State Fault Refusal} (hf : InsideUnitB f)
    {s s' t t' : State} (hc : s'.cfg = s.cfg) (hs : SameUnitB s s') (h : f s = .next t) (h' : f s' = .next t') :
    SameUnitB t t' ∧ ∃ r, t.responses = s.responses ++ [r] ∧ t'.responses = s'.responses ++ [r] := by
  obtain ⟨ibuf, obuf, r, hrun⟩ := hf s
  cases h.symm.trans (hrun s rfl ⟨rfl, rfl⟩)
  cases h'.symm.trans (hrun s' hc hs)
  exact ⟨⟨rfl, rfl⟩, r, rfl, rfl⟩

end Sys2Proof.Machine

namespace Sys2Proof.Proofs

/-- Settles O17: every command of a unit stays inside it. -/
theorem unitsAreIndependent : Obligations.UnitsAreIndependent := by
  intro i s s' t t' hc h h'
  constructor
  · intro hu
    have hin := exec_insideUnitG hu
    exact ⟨hin.sameUnitB h, fun hs => hin.same_result hc hs h h'⟩
  · intro hu
    have hin := exec_insideUnitB hu
    exact ⟨hin.sameUnitG h, fun hs => hin.same_result hc hs h h'⟩

end Sys2Proof.Proofs
end

/-! ## Proofs of the family 10_state.md -/

/-! ### What one command can do (10_state.md R24) -/

section
open Sys2Proof Sys2Proof.Machine

namespace Sys2Proof.Machine

/-- The write table of 10_state.md R24: `Writes s i u` if the command `i`, where it ends without an error, can leave in `s` the
architectural state of `u`, its response not yet delivered. -/
inductive Writes (s : State) : Instr → State → Prop
  | nothing {i : Instr} : Writes s i s
  | srst : Writes s .srst s.clear
  | ldkey (j : Fin 8) (wd : Word) : Writes s (.ldkey j wd) (s.setKey j wd)
  | ldsid (j : Fin 2) (wd : Word) : Writes s (.ldsid j wd) (s.setSid j wd)
  | ldpos (j : Fin 2) (wd : Word) : Writes s (.ldpos j wd) (s.setPos j wd)
  | gen : Writes s .gen (s.setX (generate s.cfg.slotMap s.key s.sid s.pos))
  | iclr : Writes s .iclr s.clearInput
  | ipush (data : Byte) (room : s.ilen ≠ s.cfg.nb) : Writes s (.ipush data) (s.appendInput data)
  | enc : Writes s .enc (s.setOutput (b64Encode s.ibuf))
  | dec : Writes s .dec (s.setOutput (b64Decode s.ibuf))

/-- Everything a command can do: its writes and the answer OK, or an error that writes nothing. -/
inductive Effect (s : State) (i : Instr) : State → Prop
  | answer {u : State} (w : Writes s i u) (v : Word) : Effect s i (u.respond v)
  | error (e : Err) (info : Word) (produced : e.code ∈ producedCodes) : Effect s i (s.raise e info)

/-- An index check adds IndexRange to what the checked command does. -/
theorem Effect.withIndex {s : State} {i : Instr} {idx bound : Nat} {body : Fin bound → State}
    (hbody : ∀ h : idx < bound, Effect s i (body ⟨idx, h⟩)) : Effect s i (s.withIndex idx bound body) := by
  obtain ⟨h, e⟩ | ⟨-, e⟩ := s.withIndex_cases idx bound body <;> rw [e]
  · exact hbody h
  · exact .error _ _ (by decide)

theorem ipush_effect (data : Byte) (s : State) : ∃ t, exec (.ipush data) s = .next t ∧ Effect s (.ipush data) t := by
  by_cases h : s.ilen = s.cfg.nb
  · exact ⟨_, exec_ipush_of_full h data, .error _ _ (by decide)⟩
  · exact ⟨_, exec_ipush_of_room h data, .answer (.ipush data h) _⟩

theorem dec_effect (s : State) : ∃ t, exec .dec s = .next t ∧ Effect s .dec t := by
  cases h : decodeCheck s.ibuf with
  | ok => exact ⟨_, exec_dec_of_ok h, .answer .dec _⟩
  | badLength n => exact ⟨_, exec_dec_of_badLength h, .error _ _ (by decide)⟩
  | badCharacter n => exact ⟨_, exec_dec_of_badCharacter h, .error _ _ (by decide)⟩

/-- Every command has an effect of the write table. -/
theorem exec_effect (i : Instr) (s : State) : ∃ t, exec i s = .next t ∧ Effect s i t := by
  cases i with
  | nop => exact ⟨_, rfl, .answer .nothing _⟩
  | rdsr idx => exact ⟨_, rfl, .withIndex fun _ => .answer .nothing _⟩
  | srst => exact ⟨_, rfl, .answer .srst _⟩
  | ldkey idx wd => exact ⟨_, rfl, .withIndex fun h => .answer (.ldkey ⟨idx, h⟩ wd) _⟩
  | ldsid idx wd => exact ⟨_, rfl, .withIndex fun h => .answer (.ldsid ⟨idx, h⟩ wd) _⟩
  | ldpos idx wd => exact ⟨_, rfl, .withIndex fun h => .answer (.ldpos ⟨idx, h⟩ wd) _⟩
  | gen => exact ⟨_, rfl, .answer .gen _⟩
  | rdx idx => exact ⟨_, rfl, .withIndex fun _ => .answer .nothing _⟩
  | iclr => exact ⟨_, rfl, .answer .iclr _⟩
  | ipush data => exact ipush_effect data s
  | enc => exact ⟨_, rfl, .answer .enc _⟩
  | dec => exact dec_effect s
  | val => exact ⟨_, rfl, .answer .nothing _⟩
  | ord idx => exact ⟨_, rfl, .withIndex fun _ => .answer .nothing _⟩
  | rdelut idx => exact ⟨_, rfl, .withIndex fun _ => .answer .nothing _⟩
  | rddlut idx => exact ⟨_, rfl, .withIndex fun _ => .answer .nothing _⟩

theorem effect_of_exec {i : Instr} {s t : State} (h : exec i s = .next t) : Effect s i t := by
  obtain ⟨u, hu, heff⟩ := exec_effect i s
  cases h.symm.trans hu
  exact heff

/-- No row of the write table names the configuration or the two ends of a run. -/
theorem Writes.ends {s u : State} {i : Instr} (w : Writes s i u) :
    u.cfg = s.cfg ∧ u.pending = s.pending ∧ u.responses = s.responses := by
  cases w <;> exact ⟨rfl, rfl, rfl⟩

/-- Whatever a command answers, what it leaves beside the response is a row of the write table. -/
theorem Effect.writes {s t : State} {i : Instr} (h : Effect s i t) : Writes s i { t with responses := s.responses } := by
  cases h with
  | answer w v =>
    obtain ⟨-, -, hresponses⟩ := w.ends
    rw [← hresponses]
    exact w
  | error e info _ => exact .nothing

theorem Effect.cfg_pending {s t : State} {i : Instr} (h : Effect s i t) : t.cfg = s.cfg ∧ t.pending = s.pending := by
  obtain ⟨hcfg, hpending, -⟩ := h.writes.ends
  exact ⟨hcfg, hpending⟩

/-- A response that is no OK comes from an error, and an error writes nothing (60_exceptions.md R134). -/
theorem Effect.sameBlock_of_err_ne {s t : State} {i : Instr} (h : Effect s i t) {r : Response}
    (hr : t.responses = s.responses ++ [r]) (hne : r.err ≠ 0) : SameBlock s t := by
  cases h with
  | answer w v =>
    obtain ⟨-, -, hresponses⟩ := w.ends
    rw [State.respond_responses, hresponses] at hr
    cases List.append_cancel_left hr
    exact absurd rfl hne
  | error e info _ => exact ⟨⟨rfl, rfl, rfl, rfl⟩, rfl, rfl⟩

/-- A step takes off the event it runs and adds none. -/
theorem step_pending {s t : State} (h : step s = .next t) : t.pending = s.pending.tail := by
  obtain ⟨hp, rfl⟩ | ⟨cw, wd, rest, i, hp, -, hx⟩ | ⟨cw, wd, rest, hp, -, rfl⟩ | ⟨e, rest, hp, -, rfl⟩ := step_cases h
  · simp only [hp, List.tail_nil]
  · rw [hp]
    exact (effect_of_exec hx).cfg_pending.2
  · simp only [hp, State.raise_pending, List.tail_cons]
  · simp only [hp, State.clear_pending, List.tail_cons]

end Sys2Proof.Machine
end

/-! ### The invariant (10_state.md R18, R19) -/

section
open Sys2Proof Sys2Proof.Machine

namespace Sys2Proof.Machine

theorem Writes.memory_wf {s u : State} {i : Instr} (w : Writes s i u) (h : Memory.wf s) : Memory.wf u := by
  cases w with
  | nothing => exact h
  | srst => exact Memory.wf_clear s
  | ldkey j wd => exact h
  | ldsid j wd => exact h
  | ldpos j wd => exact h
  | gen => exact h
  | iclr => exact Memory.wf_clearInput h
  | ipush data room => exact Memory.wf_appendInput h room data
  | enc => exact Memory.wf_setOutput h (Config.b64Encode_fits h.1)
  | dec => exact Memory.wf_setOutput h (Config.b64Decode_fits h.1)

theorem Writes.inv {s u : State} {i : Instr} (w : Writes s i u) (h : s.Inv) : u.Inv := by
  obtain ⟨hcfg, hmem, hcodes⟩ := h
  obtain ⟨ecfg, -, eresponses⟩ := w.ends
  exact ⟨ecfg ▸ hcfg, w.memory_wf hmem, eresponses ▸ hcodes⟩

/-- Delivering a response with a produced code keeps the invariant. -/
theorem State.Inv.deliver {s : State} (h : s.Inv) {code : BitVec 4} (produced : code ∈ producedCodes) (data : Word) :
    State.Inv { s with responses := s.responses ++ [⟨code, data⟩] } := by
  obtain ⟨hcfg, hmem, hcodes⟩ := h
  exact ⟨hcfg, hmem, List.forall_mem_append.mpr ⟨hcodes, List.forall_mem_singleton.mpr produced⟩⟩

theorem Effect.inv {s t : State} {i : Instr} (heff : Effect s i t) (h : s.Inv) : t.Inv := by
  cases heff with
  | answer w v => exact (w.inv h).deliver (by decide) v
  | error e info produced => exact h.deliver produced info

theorem State.Inv.clear {s : State} (h : s.Inv) : s.clear.Inv := by
  obtain ⟨hcfg, -, hcodes⟩ := h
  exact ⟨hcfg, Memory.wf_clear s, hcodes⟩

theorem State.Inv.resetWith {c : Config} (h : c.wf) : (State.resetWith c).Inv :=
  ⟨h, Memory.wf_resetWith c, List.forall_mem_nil _⟩

end Sys2Proof.Machine

namespace Sys2Proof.Proofs

/-- Settles O13, by the effects of a command; taking an event off does not touch the invariant. -/
theorem everyStepKeepsInvariant : Obligations.EveryStepKeepsInvariant := by
  intro s t hs h
  have htaken : ∀ rest, State.Inv { s with pending := rest } := fun _ => hs
  obtain ⟨-, rfl⟩ | ⟨cw, wd, rest, i, -, -, hx⟩ | ⟨cw, wd, rest, -, -, rfl⟩ | ⟨e, rest, -, -, rfl⟩ := step_cases h
  · exact hs
  · exact (effect_of_exec hx).inv (htaken rest)
  · exact (htaken rest).deliver (by decide) cw
  · exact (htaken rest).clear

/-- Settles O14: the buffers are empty and nothing has been delivered. -/
theorem resetMeetsInvariant : Obligations.ResetMeetsInvariant :=
  ⟨.resetWith (by decide), fun _ => .resetWith⟩

end Sys2Proof.Proofs
end

/-! ### The reset values (10_state.md R23) -/

section
open Sys2Proof Sys2Proof.Machine

namespace Sys2Proof.Machine

theorem atReset_resetWith (c : Config) : AtReset (State.resetWith c) := by
  refine ⟨fun j => ?_, fun j => ?_, fun j => ?_, fun j => ?_, rfl, rfl⟩ <;> exact Vector.getElem_replicate j.isLt

theorem atReset_clear (s : State) : AtReset s.clear := atReset_resetWith s.cfg

end Sys2Proof.Machine

namespace Sys2Proof.Proofs

/-- Settles O15: a reset event and SRST both leave `State.clear`, SRST with one response more. -/
theorem resetStateValues : Obligations.ResetStateValues :=
  ⟨atReset_resetWith _, rfl, rfl, rfl, rfl, fun s =>
    ⟨⟨_, rfl, atReset_clear s, rfl⟩, ⟨_, rfl, atReset_clear s, rfl⟩⟩⟩

end Sys2Proof.Proofs
end

/-! ### The write table, piece by piece (10_state.md R24) -/

section
open Sys2Proof Sys2Proof.Machine

namespace Sys2Proof.Machine

/-- An element that changes when one is set is the one set. -/
theorem eq_of_set_ne {n : Nat} {v : Vector Word n} {i j : Fin n} {w : Word} (h : (v.set i w)[j] ≠ v[j]) : j = i := by
  by_contra hne
  exact h (Vector.getElem_set_ne i.isLt j.isLt fun hij => hne (Fin.ext hij.symm))

variable {s u : State} {i : Instr}

theorem Writes.key_changed (w : Writes s i u) {j : Fin 8} (h : u.key[j] ≠ s.key[j]) :
    i = .srst ∨ ∃ wd, i = .ldkey j wd := by
  cases w
  case srst => exact .inl rfl
  case ldkey k wd =>
    obtain rfl := eq_of_set_ne h
    exact .inr ⟨wd, rfl⟩
  all_goals exact absurd rfl h

theorem Writes.sid_changed (w : Writes s i u) {j : Fin 2} (h : u.sid[j] ≠ s.sid[j]) :
    i = .srst ∨ ∃ wd, i = .ldsid j wd := by
  cases w
  case srst => exact .inl rfl
  case ldsid k wd =>
    obtain rfl := eq_of_set_ne h
    exact .inr ⟨wd, rfl⟩
  all_goals exact absurd rfl h

theorem Writes.pos_changed (w : Writes s i u) {j : Fin 2} (h : u.pos[j] ≠ s.pos[j]) :
    i = .srst ∨ ∃ wd, i = .ldpos j wd := by
  cases w
  case srst => exact .inl rfl
  case ldpos k wd =>
    obtain rfl := eq_of_set_ne h
    exact .inr ⟨wd, rfl⟩
  all_goals exact absurd rfl h

theorem Writes.x_changed (w : Writes s i u) (h : u.x ≠ s.x) : i = .srst ∨ i = .gen := by
  cases w
  case srst => exact .inl rfl
  case gen => exact .inr rfl
  all_goals exact absurd rfl h

theorem Writes.ibuf_changed (w : Writes s i u) (h : u.ibuf ≠ s.ibuf) :
    i = .srst ∨ i = .iclr ∨ ∃ b, i = .ipush b ∧ u.ibuf = s.ibuf ++ [b] := by
  cases w
  case srst => exact .inl rfl
  case iclr => exact .inr (.inl rfl)
  case ipush data _ => exact .inr (.inr ⟨data, rfl, rfl⟩)
  all_goals exact absurd rfl h

theorem Writes.obuf_changed (w : Writes s i u) (h : u.obuf ≠ s.obuf) : i = .srst ∨ i = .enc ∨ i = .dec := by
  cases w
  case srst => exact .inl rfl
  case enc => exact .inr (.inl rfl)
  case dec => exact .inr (.inr rfl)
  all_goals exact absurd rfl h

end Sys2Proof.Machine

namespace Sys2Proof.Proofs

/-- Settles O16: what a command leaves beside its response is a row of the write table, and an error leaves the block as it was. -/
theorem commandsWriteOnlyTheirRow : Obligations.CommandsWriteOnlyTheirRow := by
  intro i s t h
  have heff := effect_of_exec h
  have w := heff.writes
  obtain ⟨hcfg, hpending⟩ := heff.cfg_pending
  have hsrst : i = .srst → AtReset t := by
    rintro rfl
    cases h
    exact atReset_clear s
  exact ⟨fun _ => w.key_changed, fun _ => w.sid_changed, fun _ => w.pos_changed, w.x_changed, w.ibuf_changed,
    w.obuf_changed, hsrst, fun _ => heff.sameBlock_of_err_ne, hcfg, hpending⟩

end Sys2Proof.Proofs
end

/-! ### Past responses (10_state.md R16) -/

section
open Sys2Proof Sys2Proof.Machine

namespace Sys2Proof.Machine

/-- The new state of `f` and the responses it adds are the same whatever responses had been delivered before. -/
def ForgetsPast (f : State → Host.Outcome State Fault Refusal) : Prop :=
  ∀ s : State, ∃ (t : State) (fresh : List Response), ∀ past : List Response,
    f { s with responses := past } = .next { t with responses := past ++ fresh }

theorem InsideUnitG.forgetsPast {f : State → Host.Outcome State Fault Refusal} (hf : InsideUnitG f) : ForgetsPast f := by
  intro s
  obtain ⟨key, sid, pos, x, r, hrun⟩ := hf s
  exact ⟨{ s with key := key, sid := sid, pos := pos, x := x }, [r], fun _ => hrun _ rfl ⟨rfl, rfl, rfl, rfl⟩⟩

theorem InsideUnitB.forgetsPast {f : State → Host.Outcome State Fault Refusal} (hf : InsideUnitB f) : ForgetsPast f := by
  intro s
  obtain ⟨ibuf, obuf, r, hrun⟩ := hf s
  exact ⟨{ s with ibuf := ibuf, obuf := obuf }, [r], fun _ => hrun _ rfl ⟨rfl, rfl⟩⟩

theorem nop_forgetsPast : ForgetsPast (exec .nop) := fun s => ⟨s, [⟨0, 0⟩], fun _ => rfl⟩

theorem srst_forgetsPast : ForgetsPast (exec .srst) := fun s => ⟨s.clear, [⟨0, 0⟩], fun _ => rfl⟩

theorem rdsr_forgetsPast (idx : Nat) : ForgetsPast (exec (.rdsr idx)) := fun s =>
  ⟨s, [indexedAnswer idx 4 s.sysReg], fun _ => congrArg Host.Outcome.next (State.withIndex_respond _ idx 4 s.sysReg)⟩

/-- The commands of neither unit are the three system commands (30_encoding.md R54). -/
theorem unit_cases (i : Instr) :
    unitOf i = 1 ∨ unitOf i = 2 ∨ i = .nop ∨ i = .srst ∨ ∃ idx, i = .rdsr idx := by
  cases i <;> simp [unitOf, opcode]

theorem exec_forgetsPast (i : Instr) : ForgetsPast (exec i) := by
  obtain hg | hb | rfl | rfl | ⟨idx, rfl⟩ := unit_cases i
  · exact (exec_insideUnitG hg).forgetsPast
  · exact (exec_insideUnitB hb).forgetsPast
  · exact nop_forgetsPast
  · exact srst_forgetsPast
  · exact rdsr_forgetsPast idx

theorem runCommand_forgetsPast (cw wd : Word) : ForgetsPast (runCommand cw wd) := by
  intro s
  cases h : decode cw wd with
  | some i => simpa only [runCommand_of_some h] using exec_forgetsPast i s
  | none => exact ⟨s, [⟨8, cw⟩], fun _ => runCommand_of_none h _⟩

theorem clear_forgetsPast : ForgetsPast fun s => .next s.clear := fun s =>
  ⟨s.clear, [], fun past => by rw [List.append_nil]; rfl⟩

theorem runEvent_forgetsPast : ∀ e : HostEvent, ForgetsPast (runEvent e)
  | .command cw wd => runCommand_forgetsPast cw wd
  | .reset => clear_forgetsPast
  | .cutByReset _ _ => clear_forgetsPast

theorem step_forgetsPast : ForgetsPast step := by
  intro s
  by_cases hp : s.pending = []
  · exact ⟨s, [], fun past => by rw [List.append_nil]; exact step_of_nil hp⟩
  · obtain ⟨e, rest, hp⟩ := List.exists_cons_of_ne_nil hp
    obtain ⟨t, fresh, hrun⟩ := runEvent_forgetsPast e { s with pending := rest }
    exact ⟨t, fresh, fun past => (step_of_cons (s := { s with responses := past }) hp).trans (hrun past)⟩

theorem run_forgetsPast (k : Nat) : ForgetsPast (Sys2Proof.core.run k) := by
  induction k with
  | zero => exact fun s => ⟨s, [], fun past => by rw [List.append_nil]; rfl⟩
  | succ k ih =>
    intro s
    obtain ⟨u, first, hstep⟩ := step_forgetsPast s
    obtain ⟨t, later, hrun⟩ := ih u
    refine ⟨t, first ++ later, fun past => ?_⟩
    rw [run_succ (hstep past), ← List.append_assoc]
    exact hrun (past ++ first)

end Sys2Proof.Machine

namespace Sys2Proof.Proofs

/-- Settles O20: the run from `s` itself is the one after `s.responses`. -/
theorem pastResponsesDoNotMatter : Obligations.PastResponsesDoNotMatter := by
  intro k s t past h
  obtain ⟨u, fresh, hrun⟩ := run_forgetsPast k s
  cases h.symm.trans (hrun s.responses)
  exact ⟨fresh, rfl, hrun past⟩

end Sys2Proof.Proofs
end

/-! ### The operand registers (10_state.md R11, R12, R13) -/

section
open Sys2Proof Sys2Proof.Machine

namespace Sys2Proof.Machine

/-- From two states that differ in KEY, SID and POS alone, `f` leads to two such states. -/
def HidesOperands (f : State → Host.Outcome State Fault Refusal) : Prop :=
  ∀ s s' t t' : State, AgreeButOperands s s' → f s = .next t → f s' = .next t' → AgreeButOperands t t'

/-- It is enough to relate the states an operation leads to, where it is given as a function. -/
theorem hidesOperands_of_next {g : State → State}
    (h : ∀ s s', AgreeButOperands s s' → AgreeButOperands (g s) (g s')) : HidesOperands fun s => .next (g s) := by
  intro s s' t t' hs ht ht'
  cases ht
  cases ht'
  exact h s s' hs

/-! #### Operations -/

section
variable {s s' : State} (h : AgreeButOperands s s')
include h

theorem AgreeButOperands.deliver (r : Response) :
    AgreeButOperands { s with responses := s.responses ++ [r] } { s' with responses := s'.responses ++ [r] } := by
  obtain ⟨hcfg, hx, hb, hpending, hresponses⟩ := h
  exact ⟨hcfg, hx, hb, hpending, congrArg (· ++ [r]) hresponses⟩

theorem AgreeButOperands.clear : AgreeButOperands s.clear s'.clear := by
  obtain ⟨hcfg, -, -, hpending, hresponses⟩ := h
  exact ⟨hcfg, rfl, ⟨rfl, rfl⟩, hpending, hresponses⟩

theorem AgreeButOperands.withIndex {idx bound : Nat} {body body' : Fin bound → State}
    (hbody : ∀ j, AgreeButOperands (body j) (body' j)) :
    AgreeButOperands (s.withIndex idx bound body) (s'.withIndex idx bound body') := by
  by_cases hlt : idx < bound
  · rw [State.withIndex_of_lt hlt, State.withIndex_of_lt hlt]
    exact hbody _
  · rw [State.withIndex_of_le (Nat.not_lt.mp hlt), State.withIndex_of_le (Nat.not_lt.mp hlt)]
    exact h.deliver _

theorem AgreeButOperands.sysReg_eq : s'.sysReg = s.sysReg := by
  obtain ⟨hcfg, -, ⟨hibuf, hobuf⟩, -, -⟩ := h
  funext j
  simp only [State.sysReg, State.ilen, State.olen, hcfg, hibuf, hobuf]

end

/-! #### Commands -/

/-- A command of unit B reads nothing of unit G and leaves it as it was. -/
theorem InsideUnitB.hidesOperands {f : State → Host.Outcome State Fault Refusal} (hf : InsideUnitB f) :
    HidesOperands f := by
  rintro s s' t t' ⟨hcfg, hx, hb, hpending, hresponses⟩ h h'
  obtain ⟨ibuf, obuf, r, hrun⟩ := hf s
  cases h.symm.trans (hrun s rfl ⟨rfl, rfl⟩)
  cases h'.symm.trans (hrun s' hcfg hb)
  exact ⟨hcfg, hx, ⟨rfl, rfl⟩, hpending, congrArg (· ++ [r]) hresponses⟩

/-- An indexed command hides the operand registers if what it does in range does: LDKEY, LDSID, LDPOS, RDX and RDSR. -/
theorem hidesOperands_withIndex {idx bound : Nat} {body : State → Fin bound → State}
    (hbody : ∀ s s' j, AgreeButOperands s s' → AgreeButOperands (body s j) (body s' j)) :
    HidesOperands fun s => .next (s.withIndex idx bound (body s)) :=
  hidesOperands_of_next fun s s' h => h.withIndex fun j => hbody s s' j h

/-- Every command but GEN, the only one that reads the operand registers. -/
theorem exec_hidesOperands {i : Instr} (hgen : i ≠ .gen) : HidesOperands (exec i) := by
  obtain hg | hb | rfl | rfl | ⟨idx, rfl⟩ := unit_cases i
  · obtain ⟨idx, wd, rfl | rfl | rfl⟩ | rfl | ⟨idx, rfl⟩ := (unitOf_eq_one_iff i).mp hg
    · exact hidesOperands_withIndex fun _ _ _ h => h.deliver ⟨0, 0⟩
    · exact hidesOperands_withIndex fun _ _ _ h => h.deliver ⟨0, 0⟩
    · exact hidesOperands_withIndex fun _ _ _ h => h.deliver ⟨0, 0⟩
    · exact absurd rfl hgen
    · refine hidesOperands_withIndex fun s s' j h => ?_
      have hx : s'.x = s.x := h.2.1
      rw [hx]
      exact h.deliver ⟨0, s.x[j]⟩
  · exact (exec_insideUnitB hb).hidesOperands
  · exact hidesOperands_of_next fun _ _ h => h.deliver ⟨0, 0⟩
  · exact hidesOperands_of_next fun _ _ h => h.clear.deliver ⟨0, 0⟩
  · refine hidesOperands_withIndex fun s s' j h => ?_
    rw [h.sysReg_eq]
    exact h.deliver ⟨0, s.sysReg j⟩

/-! #### Runs -/

theorem runEvent_hidesOperands {e : HostEvent} (hgen : ∀ cw wd, e = .command cw wd → decode cw wd ≠ some .gen) :
    HidesOperands (runEvent e) := by
  cases e with
  | command cw wd =>
    show HidesOperands (runCommand cw wd)
    cases h : decode cw wd with
    | some i =>
      rw [show runCommand cw wd = exec i from funext (runCommand_of_some h)]
      exact exec_hidesOperands fun hi => hgen cw wd rfl (hi ▸ h)
    | none =>
      rw [show runCommand cw wd = fun s => .next (s.raise .illegalCommand cw) from funext (runCommand_of_none h)]
      exact hidesOperands_of_next fun _ _ hs => hs.deliver _
  | reset => exact hidesOperands_of_next fun _ _ h => h.clear
  | cutByReset cw wd => exact hidesOperands_of_next fun _ _ h => h.clear

theorem step_agreeButOperands {s s' t t' : State} (hs : AgreeButOperands s s') (hgen : NoGenPending s)
    (h : step s = .next t) (h' : step s' = .next t') : AgreeButOperands t t' := by
  obtain ⟨hcfg, hx, hb, hpending, hresponses⟩ := hs
  cases hp : s.pending with
  | nil =>
    cases h.symm.trans (step_of_nil hp)
    cases h'.symm.trans (step_of_nil (hpending.trans hp))
    exact ⟨hcfg, hx, hb, hpending, hresponses⟩
  | cons e rest =>
    rw [step_of_cons hp] at h
    rw [step_of_cons (hpending.trans hp)] at h'
    have hhead : ∀ cw wd, e = .command cw wd → decode cw wd ≠ some .gen := by
      rintro cw wd rfl
      exact hgen cw wd (hp ▸ List.mem_cons_self)
    have htaken : AgreeButOperands { s with pending := rest } { s' with pending := rest } :=
      ⟨hcfg, hx, hb, rfl, hresponses⟩
    exact runEvent_hidesOperands hhead _ _ _ _ htaken h h'

theorem NoGenPending.step {s t : State} (hgen : NoGenPending s) (h : step s = .next t) : NoGenPending t := by
  intro cw wd hmem
  rw [step_pending h] at hmem
  exact hgen cw wd (List.mem_of_mem_tail hmem)

/-- A run of one step more is a step and a run from where it leads. -/
theorem run_succ_cases {k : Nat} {s t : State} (h : Sys2Proof.core.run (k + 1) s = .next t) :
    ∃ u, step s = .next u ∧ Sys2Proof.core.run k u = .next t := by
  obtain ⟨u, hu⟩ := Proofs.everyStepAnswers s
  exact ⟨u, hu, (run_succ hu k).symm.trans h⟩

end Sys2Proof.Machine

namespace Sys2Proof.Proofs

/-- Settles O19, by induction on the number of steps: agreement and the absence of GEN are kept together. -/
theorem operandRegistersAreNotReturned : Obligations.OperandRegistersAreNotReturned := by
  intro k
  induction k with
  | zero =>
    intro s s' t t' hs _ h h'
    cases h
    cases h'
    exact hs
  | succ k ih =>
    intro s s' t t' hs hgen h h'
    obtain ⟨u, hstep, hrun⟩ := run_succ_cases h
    obtain ⟨u', hstep', hrun'⟩ := run_succ_cases h'
    exact ih u u' t t' (step_agreeButOperands hs hgen hstep hstep') (hgen.step hstep) hrun hrun'

end Sys2Proof.Proofs
end

/-! ## Proofs of the family 20_memory.md -/

/-! ### Repeating a command (20_memory.md R38) -/

section
open Sys2Proof Sys2Proof.Machine

namespace Sys2Proof.Machine

theorem sameBlock_refl (s : State) : SameBlock s s := ⟨⟨rfl, rfl, rfl, rfl⟩, rfl, rfl⟩

theorem Effect.one_response {s t : State} {i : Instr} (h : Effect s i t) : ∃ r, t.responses = s.responses ++ [r] := by
  cases h with
  | answer w v =>
    obtain ⟨-, -, hresponses⟩ := w.ends
    exact ⟨⟨0, v⟩, by rw [State.respond_responses, hresponses]; rfl⟩
  | error e info _ => exact ⟨⟨e.code, info⟩, rfl⟩

/-- What a command writes is the same row of the write table whatever responses had been delivered before. -/
theorem writes_of_exec {i : Instr} {s t : State} (h : exec i s = .next t) (past : List Response) :
    Writes { s with responses := past } i { t with responses := past } := by
  obtain ⟨t', fresh, hrun⟩ := exec_forgetsPast i s
  cases h.symm.trans (hrun s.responses)
  exact (effect_of_exec (hrun past)).writes

/-- The six reads have no row in the write table (10_state.md R24). -/
theorem Writes.eq_of_read {s u : State} {i : Instr} (w : Writes s i u)
    (hi : (∃ n, i = .rdsr n ∨ i = .rdx n ∨ i = .ord n ∨ i = .rdelut n ∨ i = .rddlut n) ∨ i = .val) : u = s := by
  obtain ⟨n, rfl | rfl | rfl | rfl | rfl⟩ | rfl := hi <;> cases w <;> rfl

/-- Each row but that of IPUSH writes values that the row itself does not change, so that writing it again adds nothing; the case
left over is a first execution that wrote nothing. -/
theorem Writes.again {s u v : State} {i : Instr} (hpush : ∀ b, i ≠ .ipush b) (first : Writes s i u)
    (second : Writes u i v) : u = s ∨ SameBlock u v := by
  cases first with
  | nothing => exact .inl rfl
  | ipush data _ => exact absurd rfl (hpush data)
  | ldkey j wd =>
    refine .inr ?_
    generalize hj : j.val = idx at second
    cases second with
    | nothing => exact sameBlock_refl _
    | ldkey k _ =>
      obtain rfl := Fin.ext hj
      exact ⟨⟨Vector.set_set (hi := j.isLt) .., rfl, rfl, rfl⟩, rfl, rfl⟩
  | ldsid j wd =>
    refine .inr ?_
    generalize hj : j.val = idx at second
    cases second with
    | nothing => exact sameBlock_refl _
    | ldsid k _ =>
      obtain rfl := Fin.ext hj
      exact ⟨⟨rfl, Vector.set_set (hi := j.isLt) .., rfl, rfl⟩, rfl, rfl⟩
  | ldpos j wd =>
    refine .inr ?_
    generalize hj : j.val = idx at second
    cases second with
    | nothing => exact sameBlock_refl _
    | ldpos k _ =>
      obtain rfl := Fin.ext hj
      exact ⟨⟨rfl, rfl, Vector.set_set (hi := j.isLt) .., rfl⟩, rfl, rfl⟩
  | srst | gen | iclr | enc | dec => cases second <;> exact .inr (sameBlock_refl _)

/-- A command that wrote nothing does the same again, with the same response. -/
theorem exec_again_of_unwritten {i : Instr} {s t u : State} (hst : { t with responses := s.responses } = s)
    (h : exec i s = .next t) (h' : exec i t = .next u) :
    SameBlock t u ∧ ∃ r, t.responses = s.responses ++ [r] ∧ u.responses = t.responses ++ [r] := by
  obtain ⟨t', fresh, hrun⟩ := exec_forgetsPast i s
  obtain ⟨r, hr⟩ := (effect_of_exec h).one_response
  have ht : t = { s with responses := t.responses } := by rw [← hst]
  have hagain := hrun t.responses
  rw [← ht] at hagain
  cases h.symm.trans (hrun s.responses)
  cases h'.symm.trans hagain
  exact ⟨sameBlock_refl _, r, hr, congrArg _ (List.append_cancel_left hr)⟩

end Sys2Proof.Machine

namespace Sys2Proof.Proofs

/-- Settles O18: the second execution writes the row of the first again, or, where the first wrote nothing, does the same again. -/
theorem repeatingAddsNothing : Obligations.RepeatingAddsNothing := by
  intro i s t u hpush h h'
  have first : Writes s i { t with responses := s.responses } := writes_of_exec h s.responses
  have second : Writes { t with responses := s.responses } i { u with responses := s.responses } :=
    writes_of_exec h' s.responses
  constructor
  · obtain hst | hsame := first.again hpush second
    · exact (exec_again_of_unwritten hst h h').1
    · exact hsame
  · intro hread
    have hst := first.eq_of_read hread
    have hsame : SameBlock s { t with responses := s.responses } := by
      rw [hst]
      exact sameBlock_refl s
    exact ⟨hsame, (exec_again_of_unwritten hst h h').2⟩

end Sys2Proof.Proofs
end

/-! ### The order of events (20_memory.md R40, 70_reset_and_hazards.md R160) -/

section
open Sys2Proof Sys2Proof.Machine

namespace Sys2Proof.Machine

/-- `f` does the same whatever events are still to come, and leaves them to come. -/
def IgnoresPending (f : State → Host.Outcome State Fault Refusal) : Prop :=
  ∀ s : State, ∃ t : State, ∀ later : List HostEvent,
    f { s with pending := later } = .next { t with pending := later }

theorem InsideUnitG.ignoresPending {f : State → Host.Outcome State Fault Refusal} (hf : InsideUnitG f) :
    IgnoresPending f := by
  intro s
  obtain ⟨key, sid, pos, x, r, hrun⟩ := hf s
  exact ⟨{ s with key := key, sid := sid, pos := pos, x := x, responses := s.responses ++ [r] },
    fun _ => hrun _ rfl ⟨rfl, rfl, rfl, rfl⟩⟩

theorem InsideUnitB.ignoresPending {f : State → Host.Outcome State Fault Refusal} (hf : InsideUnitB f) :
    IgnoresPending f := by
  intro s
  obtain ⟨ibuf, obuf, r, hrun⟩ := hf s
  exact ⟨{ s with ibuf := ibuf, obuf := obuf, responses := s.responses ++ [r] }, fun _ => hrun _ rfl ⟨rfl, rfl⟩⟩

theorem rdsr_ignoresPending (idx : Nat) : IgnoresPending (exec (.rdsr idx)) := fun s =>
  ⟨{ s with responses := s.responses ++ [indexedAnswer idx 4 s.sysReg] },
    fun _ => congrArg Host.Outcome.next (State.withIndex_respond _ idx 4 s.sysReg)⟩

theorem exec_ignoresPending (i : Instr) : IgnoresPending (exec i) := by
  obtain hg | hb | rfl | rfl | ⟨idx, rfl⟩ := unit_cases i
  · exact (exec_insideUnitG hg).ignoresPending
  · exact (exec_insideUnitB hb).ignoresPending
  · exact fun s => ⟨s.respond 0, fun _ => rfl⟩
  · exact fun s => ⟨s.clear.respond 0, fun _ => rfl⟩
  · exact rdsr_ignoresPending idx

theorem runEvent_ignoresPending (e : HostEvent) : IgnoresPending (runEvent e) := by
  intro s
  cases e with
  | command cw wd =>
    cases h : decode cw wd with
    | some i => simpa only [runEvent, runCommand_of_some h] using exec_ignoresPending i s
    | none => exact ⟨s.raise .illegalCommand cw, fun _ => runCommand_of_none h _⟩
  | reset => exact ⟨s.clear, fun _ => rfl⟩
  | cutByReset cw wd => exact ⟨s.clear, fun _ => rfl⟩

/-- Running the first events leads to the same state whatever follows them. -/
theorem run_first_ignoresPending (first : List HostEvent) (s : State) :
    ∃ t : State, ∀ later : List HostEvent,
      Sys2Proof.core.run first.length { s with pending := first ++ later } = .next { t with pending := later } := by
  induction first generalizing s with
  | nil => exact ⟨s, fun _ => rfl⟩
  | cons e rest ih =>
    obtain ⟨u, hevent⟩ := runEvent_ignoresPending e s
    obtain ⟨t, hrun⟩ := ih u
    refine ⟨t, fun later => ?_⟩
    have hstep : step { s with pending := e :: rest ++ later } = .next { u with pending := rest ++ later } :=
      (step_of_cons rfl).trans (hevent (rest ++ later))
    exact (run_succ hstep rest.length).trans (hrun later)

end Sys2Proof.Machine

namespace Sys2Proof.Proofs

/-- Settles O21: running the first events alone is running them with nothing to follow. -/
theorem eventsTakeEffectInOrder : Obligations.EventsTakeEffectInOrder := by
  intro first later s
  obtain ⟨t, hrun⟩ := run_first_ignoresPending first s
  have halone := hrun []
  rw [List.append_nil] at halone
  exact ⟨{ t with pending := [] }, halone, rfl, hrun later⟩

end Sys2Proof.Proofs
end

/-! ## Proofs of the family 30_encoding.md -/

/-! ### Encoding and decoding (30_encoding.md R54, R59) -/

section
open Sys2Proof Sys2Proof.Machine

namespace Sys2Proof

theorem Instr.wellFormed_iff (i : Instr) : i.wellFormed = true ↔ i.index?.getD 0 < 2 ^ 16 := by
  unfold Instr.wellFormed
  cases i.index? <;> simp

theorem encode_toNat {i : Instr} (h : i.wellFormed = true) :
    (encode i).1.toNat = (opcode i).toNat * 2 ^ 24 + i.index?.getD 0 := by
  rw [encode, commandWord_toNat, BitVec.toNat_ofNat, Nat.mod_eq_of_lt ((Instr.wellFormed_iff i).mp h)]

/-- The words that encode well-formed commands: the opcode and a zero byte above, the index below (30_encoding.md R51). -/
theorem encode_eq_iff (i : Instr) (cw : Word) : i.wellFormed = true ∧ (encode i).1 = cw ↔
    cw.toNat / 2 ^ 16 * 2 ^ 16 = (opcode i).toNat * 2 ^ 24 ∧ cw.toNat % 2 ^ 16 = i.index?.getD 0 := by
  constructor
  · rintro ⟨hwf, rfl⟩
    have hidx := (Instr.wellFormed_iff i).mp hwf
    rw [encode_toNat hwf]
    omega
  · rintro ⟨hop, hidx⟩
    have hwf : i.wellFormed = true := by
      rw [Instr.wellFormed_iff]
      omega
    exact ⟨hwf, BitVec.eq_of_toNat_eq ((encode_toNat hwf).trans (by rw [← hop, ← hidx, Nat.div_add_mod']))⟩

/-- A command of format N or D has one word. -/
theorem encode_eq_iff_of_plain {i : Instr} {op : BitVec 8} (hidx : i.index? = none) (hop : opcode i = op) (cw : Word) :
    i.wellFormed = true ∧ (encode i).1 = cw ↔ cw.toNat = op.toNat * 2 ^ 24 := by
  rw [encode_eq_iff, hidx, hop, Option.getD_none]
  omega

/-- A command of format I or ID has its index in the lower half of its word. -/
theorem encode_eq_iff_of_indexed {i : Instr} {op : BitVec 8} {idx : Nat} (hidx : i.index? = some idx) (hop : opcode i = op)
    (cw : Word) : i.wellFormed = true ∧ (encode i).1 = cw ↔
      cw.toNat / 2 ^ 16 * 2 ^ 16 = op.toNat * 2 ^ 24 ∧ cw.toNat % 2 ^ 16 = idx := by
  rw [encode_eq_iff, hidx, hop, Option.getD_some]

/-- Decoding an encoded command, row by row. -/
theorem decode_encode {i : Instr} (h : i.wellFormed = true) : decode (encode i).1 (encode i).2 = some i := by
  have plain {op : BitVec 8} (hidx : i.index? = none) (hop : opcode i = op) : (encode i).1.toNat = op.toNat * 2 ^ 24 :=
    (encode_eq_iff_of_plain hidx hop _).mp ⟨h, rfl⟩
  have indexed {op : BitVec 8} {idx : Nat} (hidx : i.index? = some idx) (hop : opcode i = op) :=
    (encode_eq_iff_of_indexed hidx hop _).mp ⟨h, rfl⟩
  cases i with
  | nop => exact decode_nop _ (plain (op := 0x00) rfl rfl)
  | rdsr idx =>
    obtain ⟨hop, hidx⟩ := indexed (op := 0x01) rfl rfl
    rw [decode_rdsr _ hop, hidx]
  | srst => exact decode_srst _ (plain (op := 0x02) rfl rfl)
  | ldkey idx wd =>
    obtain ⟨hop, hidx⟩ := indexed (op := 0x10) rfl rfl
    rw [decode_ldkey _ hop, hidx]; rfl
  | ldsid idx wd =>
    obtain ⟨hop, hidx⟩ := indexed (op := 0x11) rfl rfl
    rw [decode_ldsid _ hop, hidx]; rfl
  | ldpos idx wd =>
    obtain ⟨hop, hidx⟩ := indexed (op := 0x12) rfl rfl
    rw [decode_ldpos _ hop, hidx]; rfl
  | gen => exact decode_gen _ (plain (op := 0x13) rfl rfl)
  | rdx idx =>
    obtain ⟨hop, hidx⟩ := indexed (op := 0x14) rfl rfl
    rw [decode_rdx _ hop, hidx]
  | iclr => exact decode_iclr _ (plain (op := 0x20) rfl rfl)
  | ipush data =>
    have hdata : (data.setWidth 32).setWidth 8 = data := by simp
    rw [decode_ipush _ (plain (op := 0x21) rfl rfl)]
    exact congrArg (some ∘ Instr.ipush) hdata
  | enc => exact decode_enc _ (plain (op := 0x22) rfl rfl)
  | dec => exact decode_dec _ (plain (op := 0x23) rfl rfl)
  | val => exact decode_val _ (plain (op := 0x24) rfl rfl)
  | ord idx =>
    obtain ⟨hop, hidx⟩ := indexed (op := 0x25) rfl rfl
    rw [decode_ord _ hop, hidx]
  | rdelut idx =>
    obtain ⟨hop, hidx⟩ := indexed (op := 0x26) rfl rfl
    rw [decode_rdelut _ hop, hidx]
  | rddlut idx =>
    obtain ⟨hop, hidx⟩ := indexed (op := 0x27) rfl rfl
    rw [decode_rddlut _ hop, hidx]

/-- A decoded command is well formed, and its encoding is the command word. -/
theorem encode_of_decode {cw wd : Word} {i : Instr} (h : decode cw wd = some i) :
    i.wellFormed = true ∧ (encode i).1 = cw := by
  have plain {op : BitVec 8} (hidx : i.index? = none) (hop : opcode i = op) (hcw : cw.toNat = op.toNat * 2 ^ 24) :=
    (encode_eq_iff_of_plain hidx hop cw).mpr hcw
  have indexed {op : BitVec 8} (hidx : i.index? = some (cw.toNat % 2 ^ 16)) (hop : opcode i = op)
      (hcw : cw.toNat / 2 ^ 16 * 2 ^ 16 = op.toNat * 2 ^ 24) := (encode_eq_iff_of_indexed hidx hop cw).mpr ⟨hcw, rfl⟩
  obtain ⟨hcw, rfl⟩ | ⟨hcw, rfl⟩ | ⟨hcw, rfl⟩ | ⟨hcw, rfl⟩ | ⟨hcw, rfl⟩ | ⟨hcw, rfl⟩ | ⟨hcw, rfl⟩ | ⟨hcw, rfl⟩ |
    ⟨hcw, rfl⟩ | ⟨hcw, rfl⟩ | ⟨hcw, rfl⟩ | ⟨hcw, rfl⟩ | ⟨hcw, rfl⟩ | ⟨hcw, rfl⟩ | ⟨hcw, rfl⟩ | ⟨hcw, rfl⟩ :=
    decode_cases wd h
  · exact plain (op := 0x00) rfl rfl hcw
  · exact indexed (op := 0x01) rfl rfl hcw
  · exact plain (op := 0x02) rfl rfl hcw
  · exact indexed (op := 0x10) rfl rfl hcw
  · exact indexed (op := 0x11) rfl rfl hcw
  · exact indexed (op := 0x12) rfl rfl hcw
  · exact plain (op := 0x13) rfl rfl hcw
  · exact indexed (op := 0x14) rfl rfl hcw
  · exact plain (op := 0x20) rfl rfl hcw
  · exact plain (op := 0x21) rfl rfl hcw
  · exact plain (op := 0x22) rfl rfl hcw
  · exact plain (op := 0x23) rfl rfl hcw
  · exact plain (op := 0x24) rfl rfl hcw
  · exact indexed (op := 0x25) rfl rfl hcw
  · exact indexed (op := 0x26) rfl rfl hcw
  · exact indexed (op := 0x27) rfl rfl hcw

/-- The two halves of a decoded word: the opcode of the command with a zero byte, and its index, 0 where it has none. -/
theorem halves_of_decode {cw wd : Word} {i : Instr} (h : decode cw wd = some i) :
    cw.toNat / 2 ^ 16 * 2 ^ 16 = (opcode i).toNat * 2 ^ 24 ∧ cw.toNat % 2 ^ 16 = i.index?.getD 0 :=
  (encode_eq_iff i cw).mp (encode_of_decode h)

end Sys2Proof

namespace Sys2Proof.Proofs

/-- Settles O1, row by row. -/
theorem decodeOfEncodeIsSame : Obligations.DecodeOfEncodeIsSame := fun _ => decode_encode

/-- Settles O2: the encoding of a decoded command is its word again, so that O1 decodes it. -/
theorem encodeOfDecodeIsSameWord : Obligations.EncodeOfDecodeIsSameWord := by
  intro cw wd i h
  obtain ⟨hwf, rfl⟩ := encode_of_decode h
  exact ⟨hwf, rfl, decode_encode hwf⟩

end Sys2Proof.Proofs
end

/-! ### The rows of the opcode map (30_encoding.md R54) -/

section
open Sys2Proof Sys2Proof.Machine

namespace Sys2Proof

theorem opField_mask : ∀ r ∈ opcodeTable, opField r.mask = 0xFF := by decide

theorem mnemonic_of_opField : ∀ r ∈ opcodeTable, ∀ q ∈ opcodeTable,
    opField r.matchWord = opField q.matchWord → r.mnemonic = q.mnemonic := by decide

/-- A row selects only words with its opcode. -/
theorem opField_of_selects {r : OpcodeRow} (hr : r ∈ opcodeTable) {cw : Word} (h : r.selects cw = true) :
    opField r.matchWord = opField cw := by
  have hsel : cw &&& r.mask = r.matchWord := beq_iff_eq.mp h
  have hand : opField (cw &&& r.mask) = opField cw &&& opField r.mask := BitVec.extractLsb'_and
  rw [← hsel, hand, opField_mask r hr]
  exact BitVec.and_allOnes

end Sys2Proof

namespace Sys2Proof.Proofs

/-- Settles O3: a word selects only rows of its own opcode, and each opcode has one row. -/
theorem opcodeRowsDisjoint : Obligations.OpcodeRowsDisjoint :=
  ⟨rfl, fun _ r q hr hq hsel hsel' =>
    mnemonic_of_opField r hr q hq ((opField_of_selects hr hsel).trans (opField_of_selects hq hsel').symm)⟩

end Sys2Proof.Proofs
end

/-! ### Operands (30_encoding.md R53) -/

section
open Sys2Proof Sys2Proof.Machine

namespace Sys2Proof

/-- The command with its data operand taken from another write-data word (30_encoding.md R53). -/
def Instr.withData (wd : Word) : Instr → Instr
  | .ldkey idx _ => .ldkey idx wd
  | .ldsid idx _ => .ldsid idx wd
  | .ldpos idx _ => .ldpos idx wd
  | .ipush _ => .ipush (dataByte wd)
  | .nop => .nop
  | .rdsr idx => .rdsr idx
  | .srst => .srst
  | .gen => .gen
  | .rdx idx => .rdx idx
  | .iclr => .iclr
  | .enc => .enc
  | .dec => .dec
  | .val => .val
  | .ord idx => .ord idx
  | .rdelut idx => .rdelut idx
  | .rddlut idx => .rddlut idx

theorem build_withData (wd wd' : Word) (idx : Nat) :
    ∀ r ∈ opcodeTable, (r.build idx wd).withData wd' = r.build idx wd' := by
  simp [opcodeTable, systemRows, unitGRows, unitBRows, Instr.withData]

/-- The write-data word reaches the command through its data operand alone. -/
theorem decode_withData {cw wd : Word} {i : Instr} (h : decode cw wd = some i) (wd' : Word) :
    decode cw wd' = some (i.withData wd') := by
  obtain ⟨r, hr, rfl⟩ := Option.map_eq_some_iff.mp h
  rw [decode, hr, Option.map_some, build_withData wd wd' _ r (List.mem_of_find?_eq_some hr)]

theorem eq_withData_of_decode {cw wd : Word} {i : Instr} (h : decode cw wd = some i) : i = i.withData wd :=
  Option.some.inj (h.symm.trans (decode_withData h wd))

theorem Instr.withData_eq_self {i : Instr} (hload : ∀ n w, i ≠ .ldkey n w ∧ i ≠ .ldsid n w ∧ i ≠ .ldpos n w)
    (hpush : ∀ b, i ≠ .ipush b) (wd : Word) : i.withData wd = i := by
  cases i
  case ldkey n w => exact absurd rfl (hload n w).1
  case ldsid n w => exact absurd rfl (hload n w).2.1
  case ldpos n w => exact absurd rfl (hload n w).2.2
  case ipush b => exact absurd rfl (hpush b)
  all_goals rfl

theorem dataByte_toNat (wd : Word) : (dataByte wd).toNat = wd.toNat % 2 ^ 8 := by
  rw [dataByte_eq, BitVec.toNat_setWidth]

end Sys2Proof

namespace Sys2Proof.Proofs

/-- Settles O5: the index is the lower half of the word, the data operand that of the write-data word. -/
theorem operandsComeFromTheirFields : Obligations.OperandsComeFromTheirFields := by
  intro cw wd i h
  have hdata := eq_withData_of_decode h
  refine ⟨fun n hn => ?_, ?_, ?_, fun hload hpush wd' => ?_⟩
  · obtain ⟨-, hidx⟩ := halves_of_decode h
    rw [hidx, hn, Option.getD_some]
  · rintro n w (rfl | rfl | rfl) <;> cases hdata <;> rfl
  · rintro b rfl
    obtain rfl : b = dataByte wd := Instr.ipush.inj hdata
    refine ⟨dataByte_toNat wd, fun wd' hwd' => ?_⟩
    have hsame : dataByte wd' = dataByte wd := BitVec.eq_of_toNat_eq (by rw [dataByte_toNat, dataByte_toNat, hwd'])
    rw [decode_withData h wd', Instr.withData, hsame]
  · rw [decode_withData h wd', Instr.withData_eq_self hload hpush]

end Sys2Proof.Proofs
end

/-! ### Illegal words (30_encoding.md R55) -/

section
open Sys2Proof Sys2Proof.Machine

namespace Sys2Proof

theorem opcode_mem_opcodeNumbers (i : Instr) : (opcode i).toNat ∈ opcodeNumbers := by
  cases i <;> simp [opcode, opcodeNumbers]

/-- The commands with an opcode of format N or D are those without an index (30_encoding.md R52). -/
theorem opcode_mem_plainOpcodeNumbers_iff (i : Instr) :
    (opcode i).toNat ∈ plainOpcodeNumbers ↔ i.index? = none := by
  cases i <;> simp [opcode, plainOpcodeNumbers, Instr.index?]

/-- Every opcode of the map belongs to a command, with every index where the command has one. -/
theorem exists_opcode {op : Nat} (h : op ∈ opcodeNumbers) (idx : Nat) :
    ∃ i : Instr, (opcode i).toNat = op ∧ (i.index? = none ∨ i.index? = some idx) := by
  simp only [opcodeNumbers, List.mem_cons, List.not_mem_nil, or_false] at h
  obtain rfl | rfl | rfl | rfl | rfl | rfl | rfl | rfl | rfl | rfl | rfl | rfl | rfl | rfl | rfl | rfl := h
  · exact ⟨.nop, rfl, .inl rfl⟩
  · exact ⟨.rdsr idx, rfl, .inr rfl⟩
  · exact ⟨.srst, rfl, .inl rfl⟩
  · exact ⟨.ldkey idx 0, rfl, .inr rfl⟩
  · exact ⟨.ldsid idx 0, rfl, .inr rfl⟩
  · exact ⟨.ldpos idx 0, rfl, .inr rfl⟩
  · exact ⟨.gen, rfl, .inl rfl⟩
  · exact ⟨.rdx idx, rfl, .inr rfl⟩
  · exact ⟨.iclr, rfl, .inl rfl⟩
  · exact ⟨.ipush 0, rfl, .inl rfl⟩
  · exact ⟨.enc, rfl, .inl rfl⟩
  · exact ⟨.dec, rfl, .inl rfl⟩
  · exact ⟨.val, rfl, .inl rfl⟩
  · exact ⟨.ord idx, rfl, .inr rfl⟩
  · exact ⟨.rdelut idx, rfl, .inr rfl⟩
  · exact ⟨.rddlut idx, rfl, .inr rfl⟩

/-- A word with those halves decodes, whatever its write data. -/
theorem decode_of_halves {cw : Word} {i : Instr} (hop : cw.toNat / 2 ^ 16 * 2 ^ 16 = (opcode i).toNat * 2 ^ 24)
    (hidx : cw.toNat % 2 ^ 16 = i.index?.getD 0) (wd : Word) : decode cw wd = some (i.withData wd) := by
  obtain ⟨hwf, rfl⟩ := (encode_eq_iff i cw).mpr ⟨hop, hidx⟩
  exact decode_withData (decode_encode hwf) wd

/-- The decoder refuses exactly the words of the three cases. -/
theorem decode_eq_none_iff (cw wd : Word) : decode cw wd = none ↔ IllegalWord cw := by
  have hlt := cw.isLt
  constructor
  · intro hnone
    by_contra hlegal
    simp only [IllegalWord, not_or, not_and, not_not] at hlegal
    obtain ⟨hop, hrsv, hplain⟩ := hlegal
    obtain ⟨i, hi, hindex⟩ := exists_opcode hop (cw.toNat % 2 ^ 16)
    have hidx : cw.toNat % 2 ^ 16 = i.index?.getD 0 := by
      obtain hno | hsome := hindex
      · rw [hno]
        exact hplain (hi ▸ (opcode_mem_plainOpcodeNumbers_iff i).mpr hno)
      · rw [hsome, Option.getD_some]
    have hdec := decode_of_halves (by rw [hi]; omega) hidx wd
    cases hnone.symm.trans hdec
  · intro hill
    by_contra hne
    obtain ⟨i, hi⟩ := Option.ne_none_iff_exists'.mp hne
    obtain ⟨hupper, hidx⟩ := halves_of_decode hi
    have hop : cw.toNat / 2 ^ 24 = (opcode i).toNat := by omega
    obtain hno | hrsv | ⟨hplain, hne0⟩ := hill
    · exact hno (hop ▸ opcode_mem_opcodeNumbers i)
    · omega
    · rw [hop, opcode_mem_plainOpcodeNumbers_iff] at hplain
      rw [hplain] at hidx
      exact hne0 hidx

end Sys2Proof

namespace Sys2Proof.Machine

/-- The index check of every indexed command comes first (20_memory.md R39). -/
theorem exec_of_indexOutOfRange {i : Instr} {s : State} (h : s.indexOutOfRange i = true) :
    exec i s = .next (s.raise .indexRange (zextNat (i.index?.getD 0))) := by
  have raises {idx bound : Nat} (hle : bound ≤ idx) (body : Fin bound → State) :
      (Host.Outcome.next (s.withIndex idx bound body) : Host.Outcome State Fault Refusal) =
        .next (s.raise .indexRange (zextNat idx)) := congrArg _ (State.withIndex_of_le hle body)
  cases i with
  | rdsr idx => exact raises (of_decide_eq_true h) _
  | ldkey idx wd => exact raises (of_decide_eq_true h) _
  | ldsid idx wd => exact raises (of_decide_eq_true h) _
  | ldpos idx wd => exact raises (of_decide_eq_true h) _
  | rdx idx => exact raises (of_decide_eq_true h) _
  | ord idx => exact raises (of_decide_eq_true h) _
  | rdelut idx => exact raises (of_decide_eq_true h) _
  | rddlut idx => exact raises (of_decide_eq_true h) _
  | nop | srst | gen | iclr | ipush _ | enc | dec | val => cases h

theorem zextNat_lowerHalf (cw : Word) : zextNat (cw.toNat % 2 ^ 16) = cw &&& 0x0000FFFF#32 := by
  apply BitVec.eq_of_toNat_eq
  have hmask : (cw &&& 0x0000FFFF#32).toNat = cw.toNat % 2 ^ 16 := Nat.and_two_pow_sub_one_eq_mod cw.toNat 16
  have hlt := cw.isLt
  rw [hmask, zextNat, BitVec.toNat_ofNat]
  omega

end Sys2Proof.Machine

namespace Sys2Proof.Proofs

/-- Settles O4: a word of the three cases does not decode; any other does, and the index check of its command comes first. -/
theorem illegalWordsAreThreeCases : Obligations.IllegalWordsAreThreeCases := by
  intro cw wd s rest hp
  constructor
  · intro hill
    rw [step_of_cons hp, runEvent, runCommand_of_none ((decode_eq_none_iff cw wd).mpr hill)]
    rfl
  · intro hlegal
    obtain ⟨i, hi⟩ := Option.ne_none_iff_exists'.mp (mt (decode_eq_none_iff cw wd).mp hlegal)
    refine ⟨i, hi, fun hrange => ?_⟩
    have htaken : ({ s with pending := rest } : State).indexOutOfRange i = true := hrange
    obtain ⟨-, hidx⟩ := halves_of_decode hi
    rw [step_of_command hp hi, exec_of_indexOutOfRange htaken, ← hidx, zextNat_lowerHalf]
    rfl

/-- Settles O6: the legal words by the lemmas of their rows; an illegal word meets a case of R55. -/
theorem sampleWordsDecode : Obligations.SampleWordsDecode :=
  ⟨decode_ldkey _ rfl, decode_gen _ rfl, decode_ipush _ rfl, decode_ord _ rfl, decode_rdsr _ rfl,
    (decode_eq_none_iff _ _).mpr (.inr (.inl (by decide))), (decode_eq_none_iff _ _).mpr (.inr (.inr (by decide)))⟩

end Sys2Proof.Proofs
end

/-! ### One response per command (30_encoding.md R50) -/

section
open Sys2Proof Sys2Proof.Machine

namespace Sys2Proof.Machine

theorem Effect.produced_response {s t : State} {i : Instr} (h : Effect s i t) :
    ∃ r : Response, t.responses = s.responses ++ [r] ∧ r.err ∈ producedCodes := by
  cases h with
  | answer w v =>
    obtain ⟨-, -, hresponses⟩ := w.ends
    exact ⟨⟨0, v⟩, by rw [State.respond_responses, hresponses]; rfl, (by decide : (0 : BitVec 4) ∈ producedCodes)⟩
  | error e info produced => exact ⟨⟨e.code, info⟩, rfl, produced⟩

/-- A command word, legal or not, is answered by one response, with a code the block produces. -/
theorem runCommand_response {cw wd : Word} {s t : State} (h : runCommand cw wd s = .next t) :
    ∃ r : Response, t.responses = s.responses ++ [r] ∧ r.err ∈ producedCodes := by
  cases hd : decode cw wd with
  | some i =>
    rw [runCommand_of_some hd] at h
    exact (effect_of_exec h).produced_response
  | none =>
    rw [runCommand_of_none hd] at h
    cases h
    exact ⟨⟨8, cw⟩, rfl, (by decide : (8 : BitVec 4) ∈ producedCodes)⟩

end Sys2Proof.Machine

namespace Sys2Proof.Proofs

/-- Settles O10: a step takes its event off, and its command is answered by one response. -/
theorem oneResponsePerCommand : Obligations.OneResponsePerCommand := by
  intro s t cw wd rest hp h
  have hpending := step_pending h
  rw [hp, List.tail_cons] at hpending
  rw [step_of_cons hp] at h
  obtain ⟨r, hr, hcode⟩ := runCommand_response h
  exact ⟨hpending, r, hr, by simpa only [producedCodes, List.mem_cons, List.not_mem_nil, or_false] using hcode⟩

end Sys2Proof.Proofs
end

/-! ### The port layer refines the transactions (30_encoding.md R62) -/

section
open Sys2Proof Sys2Proof.Machine

namespace Sys2Proof.Machine

/-- A command presented as the next event is the next transaction. -/
theorem step_of_presented (cw wd : Word) (s : State) :
    step { s with pending := .command cw wd :: s.pending } = runCommand cw wd s :=
  step_of_cons (e := .command cw wd) rfl

/-- Between a reset or a delivery and `cmd_ready = 1` the invariant asks nothing. -/
theorem PortState.inv_readyAfter (s : State) (n : Nat) : PortState.Inv ⟨s, readyAfter n⟩ := by
  obtain h | ⟨m, h⟩ := readyAfter_cases n <;> rw [h] <;> trivial

/-- Executing leaves the block as it is: the transaction shows in the phase alone. -/
theorem PortState.executeAfter_keeps (p : PortState) (cw wd : Word) (n : Nat) :
    ∃ q, p.executeAfter cw wd n = .next q ∧ q.Inv ∧ q.block = p.block := by
  obtain ⟨m, -, h⟩ | ⟨-, t, ht, h⟩ := p.executeAfter_cases cw wd n
  · exact ⟨_, h, trivial, rfl⟩
  · exact ⟨_, h, ht, rfl⟩

/-- An edge without reset that delivers nothing leaves the block as it is. -/
theorem PortState.clock_keeps {p : PortState} {i : PortIn} (hinv : p.Inv) (hrst : i.rstN = true)
    (hno : ¬ (p.rspValid = true ∧ i.rspReady = true)) : ∃ q, p.clock i = .next q ∧ q.Inv ∧ q.block = p.block := by
  cases hp : p.phase with
  | held => exact ⟨_, PortState.clock_of_held hrst hp, PortState.inv_readyAfter _ _, rfl⟩
  | waiting n => exact ⟨_, PortState.clock_of_waiting hrst hp, PortState.inv_readyAfter _ _, rfl⟩
  | ready =>
    cases hv : i.cmdValid with
    | true =>
      rw [PortState.clock_of_accept hrst hp hv]
      exact p.executeAfter_keeps _ _ _
    | false => exact ⟨p, PortState.clock_of_idle hrst hp hv, hinv, rfl⟩
  | executing cw wd n =>
    rw [PortState.clock_of_executing hrst hp]
    exact p.executeAfter_keeps cw wd n
  | responding cw wd done =>
    have hvalid : p.rspValid = true := p.rspValid_iff.mpr ⟨cw, wd, done, hp⟩
    have hready : i.rspReady = false := by simpa [hvalid] using hno
    exact ⟨p, PortState.clock_of_unaccepted hrst hp hready, hinv, rfl⟩

/-- A presented response belongs to the transaction of the accepted command. -/
theorem PortState.Inv.runCommand_eq {p : PortState} {cw wd : Word} {done : State} (hinv : p.Inv)
    (hp : p.phase = .responding cw wd done) : runCommand cw wd p.block = .next done := by
  simpa only [PortState.Inv, hp] using hinv

theorem PortState.rsp?_of_responding {p : PortState} {cw wd : Word} {done : State} (hp : p.phase = .responding cw wd done) :
    p.rsp? = done.responses.getLast? := by
  simp only [PortState.rsp?, hp]

/-- The response that is presented is the one that the accepted command appends. -/
theorem PortState.Inv.presented {p : PortState} {cw wd : Word} {done : State} (hinv : p.Inv)
    (hp : p.phase = .responding cw wd done) :
    ∃ r, p.rsp? = some r ∧ done.responses = p.block.responses ++ [r] := by
  obtain ⟨r, hr, -⟩ := runCommand_response (hinv.runCommand_eq hp)
  exact ⟨r, by rw [PortState.rsp?_of_responding hp, hr, List.getLast?_concat], hr⟩

end Sys2Proof.Machine

namespace Sys2Proof.Proofs

/-- Settles O57, by the three kinds of edge: reset, delivery, and any other. -/
theorem portRefinesTransactions : Obligations.PortRefinesTransactions := by
  intro p i hinv
  cases hrst : i.rstN with
  | false =>
    exact ⟨_, p.clock_of_reset hrst, p.block.clear_clear, fun _ => rfl, fun h => absurd h (by decide),
      fun h => absurd h (by decide)⟩
  | true =>
    by_cases hdeliver : p.rspValid = true ∧ i.rspReady = true
    · obtain ⟨hvalid, hready⟩ := hdeliver
      obtain ⟨cw, wd, done, hp⟩ := p.rspValid_iff.mp hvalid
      have hstep : step { p.block with pending := .command cw wd :: p.block.pending } = .next done :=
        (step_of_presented cw wd p.block).trans (hinv.runCommand_eq hp)
      exact ⟨_, PortState.clock_of_delivery hrst hp hready, PortState.inv_readyAfter _ _, fun h => absurd h (by decide),
        fun _ _ _ => ⟨cw, wd, done, hp, rfl, hstep, hinv.presented hp⟩, fun _ hno => absurd ⟨hvalid, hready⟩ hno⟩
    · obtain ⟨q, hclock, hq, hblock⟩ := PortState.clock_keeps hinv hrst hdeliver
      exact ⟨q, hclock, hq, fun h => absurd h (by decide), fun _ hvalid hready => absurd ⟨hvalid, hready⟩ hdeliver,
        fun _ _ => hblock⟩

end Sys2Proof.Proofs
end

/-! ### The port layer holds one command (30_encoding.md R62) -/

section
open Sys2Proof Sys2Proof.Machine

namespace Sys2Proof.Machine

/-- A command in flight is executing or has its response presented. -/
theorem PortState.inFlight_iff (p : PortState) (cw wd : Word) :
    p.InFlight cw wd ↔ (∃ n, p.phase = .executing cw wd n) ∨ ∃ done, p.phase = .responding cw wd done := by
  unfold PortState.InFlight
  cases p.phase <;> simp [eq_comm]

theorem PortState.cmdReady_eq_false_iff (p : PortState) : p.cmdReady = false ↔ p.phase ≠ .ready := by
  rw [← Bool.not_eq_true, p.cmdReady_iff]

theorem PortState.InFlight.cmdReady {p : PortState} {cw wd : Word} (h : p.InFlight cw wd) : p.cmdReady = false := by
  rw [p.cmdReady_eq_false_iff]
  obtain ⟨n, hp⟩ | ⟨done, hp⟩ := (p.inFlight_iff cw wd).mp h <;> rw [hp] <;> nofun

theorem PortState.inFlight_of_executeAfter {p q : PortState} {cw wd : Word} {n : Nat}
    (h : p.executeAfter cw wd n = .next q) : q.InFlight cw wd := by
  obtain ⟨m, -, hm⟩ | ⟨-, t, -, ht⟩ := p.executeAfter_cases cw wd n
  · cases h.symm.trans hm
    exact ⟨rfl, rfl⟩
  · cases h.symm.trans ht
    exact ⟨rfl, rfl⟩

/-- Only in phase ready does an edge look at the command inputs. -/
theorem PortState.clock_congr {p : PortState} {i j : PortIn} (hp : p.phase ≠ .ready) (hrst : i.rstN = j.rstN)
    (hready : i.rspReady = j.rspReady) : p.clock i = p.clock j := by
  unfold PortState.clock
  rw [hrst, hready]
  cases h : p.phase
  case ready => exact absurd h hp
  all_goals rfl

/-- An edge that neither resets nor delivers keeps the command in flight. -/
theorem PortState.InFlight.clock {p q : PortState} {i : PortIn} {cw wd : Word} (h : p.InFlight cw wd)
    (hrst : i.rstN = true) (hno : ¬ (p.rspValid = true ∧ i.rspReady = true)) (hclock : p.clock i = .next q) :
    q.InFlight cw wd := by
  obtain ⟨n, hp⟩ | ⟨done, hp⟩ := (p.inFlight_iff cw wd).mp h
  · rw [PortState.clock_of_executing hrst hp] at hclock
    exact PortState.inFlight_of_executeAfter hclock
  · have hvalid : p.rspValid = true := p.rspValid_iff.mpr ⟨cw, wd, done, hp⟩
    have hready : i.rspReady = false := by simpa [hvalid] using hno
    cases hclock.symm.trans (PortState.clock_of_unaccepted hrst hp hready)
    exact h

/-- A presented response stays as long as no edge accepts it or resets. -/
theorem PortState.clocks_of_unaccepted {p : PortState} (hvalid : p.rspValid = true) {is : List PortIn}
    (his : ∀ i ∈ is, i.rstN = true ∧ i.rspReady = false) : p.clocks is = .next p := by
  obtain ⟨cw, wd, done, hp⟩ := p.rspValid_iff.mp hvalid
  induction is with
  | nil => rfl
  | cons i rest ih =>
    obtain ⟨⟨hrst, hready⟩, hrest⟩ := List.forall_mem_cons.mp his
    simp only [PortState.clocks, PortState.clock_of_unaccepted hrst hp hready]
    exact ih hrest

end Sys2Proof.Machine

namespace Sys2Proof.Proofs

/-- Settles O55: a command in flight is in one of two phases, and both answer `cmd_ready = 0`. -/
theorem portHoldsOneCommand : Obligations.PortHoldsOneCommand := by
  refine ⟨fun p => ⟨p.cmdReady_iff, fun cw wd h => h.cmdReady, fun hvalid => ?_, fun i j hready => ?_⟩,
    fun p q i hclock hrst => ⟨fun hp hv => ?_, fun cw wd h hno => ?_⟩, fun p is hvalid => PortState.clocks_of_unaccepted hvalid⟩
  · obtain ⟨cw, wd, done, hp⟩ := p.rspValid_iff.mp hvalid
    have hflight : p.InFlight cw wd := (p.inFlight_iff cw wd).mpr (.inr ⟨done, hp⟩)
    exact hflight.cmdReady
  · exact PortState.clock_congr (p.cmdReady_eq_false_iff.mp hready)
  · rw [PortState.clock_of_accept hrst hp hv] at hclock
    have hflight := PortState.inFlight_of_executeAfter hclock
    exact ⟨hflight, hflight.cmdReady⟩
  · have hflight := h.clock hrst hno hclock
    exact ⟨hflight, hflight.cmdReady⟩

end Sys2Proof.Proofs
end

/-! ### Command sequences (30_encoding.md R50, 70_reset_and_hazards.md R153) -/

section
open Sys2Proof Sys2Proof.Machine

namespace Sys2Proof

/-- A command word written as an opcode and an index side by side. -/
theorem or_index_eq_commandWord (op : BitVec 8) {k : Nat} (h : k < 2 ^ 16) :
    (op ++ 0#24) ||| BitVec.ofNat 32 k = commandWord op (BitVec.ofNat 16 k) := by
  apply BitVec.eq_of_toNat_eq
  have hk : k % 2 ^ 32 = k := by omega
  rw [BitVec.toNat_or, BitVec.toNat_append, BitVec.toNat_ofNat, Nat.zero_mod, Nat.or_zero, BitVec.toNat_ofNat, hk,
    ← Nat.shiftLeft_add_eq_or_of_lt (by omega : k < 2 ^ 24), commandWord_toNat, BitVec.toNat_ofNat, Nat.mod_eq_of_lt h,
    Nat.shiftLeft_eq]

/-- The word `base` of an opcode with an index in its lower half decodes to the command with that index. -/
theorem decode_or_index {i : Instr} {op : BitVec 8} {base : Word} {k : Nat} (hidx : i.index? = some k) (hop : opcode i = op)
    (hbase : op ++ 0#24 = base) (hk : k < 2 ^ 16) : decode (base ||| BitVec.ofNat 32 k) (writeData i) = some i := by
  have hwf : i.wellFormed = true := by rwa [Instr.wellFormed_iff, hidx]
  have hword : (encode i).1 = base ||| BitVec.ofNat 32 k := by
    rw [← hbase, or_index_eq_commandWord _ hk, encode, hidx, hop, Option.getD_some]
  rw [← hword]
  exact decode_encode hwf

end Sys2Proof

namespace Sys2Proof.Machine

/-- The events `es` lead from the block and the responses of `s` to those of `t`, whatever events follow them. -/
def LeadsTo (es : List HostEvent) (s t : State) : Prop :=
  ∀ later : List HostEvent,
    Sys2Proof.core.run es.length { s with pending := es ++ later } = .next { t with pending := later }

theorem LeadsTo.nil (s : State) : LeadsTo [] s s := fun _ => rfl

theorem LeadsTo.append {es fs : List HostEvent} {s t u : State} (h : LeadsTo es s t) (h' : LeadsTo fs t u) :
    LeadsTo (es ++ fs) s u := by
  intro later
  have hfirst := h (fs ++ later)
  rw [← List.append_assoc] at hfirst
  rw [List.length_append, run_add hfirst]
  exact h' later

/-- One command, by its meaning alone: no command looks at the events to come. -/
theorem LeadsTo.command {cw wd : Word} {i : Instr} {s t : State} (hd : decode cw wd = some i) (hx : exec i s = .next t) :
    LeadsTo [.command cw wd] s t := by
  intro later
  obtain ⟨u, hu⟩ := exec_ignoresPending i s
  cases hx.symm.trans (hu s.pending)
  have hstep : step { s with pending := .command cw wd :: later } = .next { u with pending := later } :=
    (step_of_command rfl hd).trans (hu later)
  exact run_succ hstep 0

/-- A row of events of one kind, by the state after each of them. -/
theorem LeadsTo.map {α : Type} {ev : α → HostEvent} (st : Nat → State) {l : List α}
    (h : ∀ k (hk : k < l.length), LeadsTo [ev l[k]] (st k) (st (k + 1))) :
    LeadsTo (l.map ev) (st 0) (st l.length) := by
  induction l generalizing st with
  | nil => exact LeadsTo.nil _
  | cons a l ih =>
    have hrest := ih (fun k => st (k + 1)) fun k hk => h (k + 1) (Nat.succ_lt_succ hk)
    exact (h 0 (Nat.succ_pos _)).append hrest

theorem LeadsTo.map_range {n : Nat} {ev : Nat → HostEvent} (st : Nat → State)
    (h : ∀ k, k < n → LeadsTo [ev k] (st k) (st (k + 1))) : LeadsTo ((List.range n).map ev) (st 0) (st n) := by
  have hall := LeadsTo.map (ev := ev) (l := List.range n) st fun k hk => by
    rw [List.getElem_range]
    exact h k (hk.trans_eq List.length_range)
  rwa [List.length_range] at hall

theorem LeadsTo.map_finRange {n : Nat} {ev : Fin n → HostEvent} (st : Nat → State)
    (h : ∀ k : Fin n, LeadsTo [ev k] (st k) (st (k + 1))) : LeadsTo ((List.finRange n).map ev) (st 0) (st n) := by
  have hall := LeadsTo.map (ev := ev) (l := List.finRange n) st fun k hk => by
    rw [List.getElem_finRange]
    exact h ⟨k, hk.trans_eq List.length_finRange⟩
  rwa [List.length_finRange] at hall

/-- A run of exactly the given events. -/
theorem LeadsTo.run {es : List HostEvent} {s t : State} (h : LeadsTo es s t) :
    Sys2Proof.core.run es.length { s with pending := es } = .next { t with pending := [] } := by
  have hrun := h []
  rwa [List.append_nil] at hrun

end Sys2Proof.Machine
end

/-! ### encode(bytes) (30_encoding.md R50) -/

section
open Sys2Proof Sys2Proof.Machine

namespace Sys2Proof.Machine

/-- `s` after ICLR and the pushes of the first `k` bytes of `b`. -/
def State.pushed (s : State) (b : List Byte) (k : Nat) : State :=
  { s with ibuf := b.take k, responses := s.responses ++ List.replicate (1 + k) ⟨0, 0⟩ }

theorem pushed_succ (s : State) {b : List Byte} (hfit : b.length ≤ s.cfg.nb) {k : Nat} (hk : k < b.length) :
    LeadsTo [.command 0x21000000 (b[k].setWidth 32)] (s.pushed b k) (s.pushed b (k + 1)) := by
  have hbyte : (b[k].setWidth 32).setWidth 8 = b[k] := by simp
  have hroom : (s.pushed b k).ilen ≠ s.cfg.nb := by
    simp only [State.ilen, State.pushed, List.length_take]
    omega
  have hpush : ((s.pushed b k).appendInput b[k]).respond 0 = s.pushed b (k + 1) := by
    simp only [State.pushed, ← List.take_append_getElem hk, ← Nat.add_assoc, List.replicate_succ', ← List.append_assoc]
    rfl
  refine LeadsTo.command (decode_ipush _ rfl) ?_
  rw [hbyte, exec_ipush_of_room hroom, hpush]

theorem exec_ord {s : State} {k : Nat} (hk : k < s.obuf.length) :
    exec (.ord k) s = .next (s.respond (zextByte s.obuf[k])) :=
  congrArg Host.Outcome.next (State.withIndex_of_lt hk _)

/-- `s` after the first `k` characters of its output buffer have been read. -/
def State.outputRead (s : State) (k : Nat) : State :=
  { s with responses := s.responses ++ (s.obuf.take k).map fun c => ⟨0, c.setWidth 32⟩ }

theorem outputRead_succ {s : State} (hidx : s.obuf.length ≤ 2 ^ 16) {k : Nat} (hk : k < s.obuf.length) :
    LeadsTo [.command (0x25000000#32 ||| BitVec.ofNat 32 k) 0] (s.outputRead k) (s.outputRead (k + 1)) := by
  have hread : (s.outputRead k).respond (zextByte s.obuf[k]) = s.outputRead (k + 1) := by
    simp only [State.outputRead, ← List.take_append_getElem hk, List.map_append, ← List.append_assoc]
    rfl
  rw [← hread]
  exact LeadsTo.command (decode_or_index (i := .ord k) (op := 0x25) rfl rfl (by decide) (hk.trans_le hidx))
    (exec_ord (s := s.outputRead k) hk)

/-- `s` after ICLR, the pushes of `b`, and ENC. -/
def State.encoded (s : State) (b : List Byte) : State :=
  { s with
    ibuf := b
    obuf := b64Encode b
    responses := s.responses ++ List.replicate (1 + b.length) ⟨0, 0⟩ ++ [⟨0, BitVec.ofNat 32 (b64Encode b).length⟩] }

theorem exec_enc_pushed (s : State) (b : List Byte) : exec .enc (s.pushed b b.length) = .next (s.encoded b) := by
  have hall : (s.pushed b b.length).ibuf = b := List.take_length
  rw [enc_fixedByInput b _ hall]
  simp only [State.pushed, List.take_length]
  rfl

/-- The events of `encode(b)` (30_encoding.md R50). -/
def encodeEvents (b : List Byte) : List HostEvent :=
  .command 0x20000000 0 :: b.map (fun c => .command 0x21000000 (c.setWidth 32)) ++
    .command 0x22000000 0 ::
    (List.range (b64Encode b).length).map (fun k => .command (0x25000000#32 ||| BitVec.ofNat 32 k) 0)

theorem encodeEvents_length (b : List Byte) : (encodeEvents b).length = 2 + b.length + (b64Encode b).length := by
  simp only [encodeEvents, List.length_append, List.length_cons, List.length_map, List.length_range]
  omega

theorem encodeEvents_leadsTo {s : State} {b : List Byte} (hcfg : s.cfg.wf) (hfit : b.length ≤ s.cfg.nb) :
    LeadsTo (encodeEvents b) s ((s.encoded b).outputRead (b64Encode b).length) := by
  have hsize : (b64Encode b).length ≤ 2 ^ 16 := by
    have hob := Config.ob_le hcfg
    have hout := Config.b64Encode_fits hfit
    omega
  have clear : LeadsTo [.command 0x20000000 0] s (s.pushed b 0) := LeadsTo.command (decode_iclr _ rfl) rfl
  have push : LeadsTo (b.map fun c => .command 0x21000000 (c.setWidth 32)) (s.pushed b 0) (s.pushed b b.length) :=
    LeadsTo.map (s.pushed b) fun _ => pushed_succ s hfit
  have enc : LeadsTo [.command 0x22000000 0] (s.pushed b b.length) (s.encoded b) :=
    LeadsTo.command (decode_enc _ rfl) (exec_enc_pushed s b)
  have read := LeadsTo.map_range (s.encoded b).outputRead fun _ hk => outputRead_succ (s := s.encoded b) hsize hk
  have hstart : (s.encoded b).outputRead 0 = s.encoded b := by
    simp only [State.outputRead, List.take_zero, List.map_nil, List.append_nil]
  rw [hstart] at read
  exact (clear.append push).append (enc.append read)

end Sys2Proof.Machine

namespace Sys2Proof.Proofs

/-- Settles O52, command by command. -/
theorem encodeContract : Obligations.EncodeContract := by
  intro s b hcfg hfit
  have hrun := (encodeEvents_leadsTo hcfg hfit).run
  rw [encodeEvents_length] at hrun
  refine ⟨_, hrun, rfl, rfl, rfl, ?_⟩
  simp only [State.outputRead, State.encoded, List.take_length, List.append_assoc, List.singleton_append]

end Sys2Proof.Proofs
end

/-! ### generate(key, stream_id, pos) (30_encoding.md R50) -/

section
open Sys2Proof Sys2Proof.Machine

namespace Sys2Proof.Machine

/-! #### Loading a register file element by element -/

/-- The register file `old` with its first `k` elements replaced by those of `new`. -/
def loadedPrefix {n : Nat} (new old : Vector Word n) (k : Nat) : Vector Word n :=
  Vector.ofFn fun j => if j.val < k then new[j] else old[j]

section
variable {n : Nat} (new old : Vector Word n)

theorem loadedPrefix_zero : loadedPrefix new old 0 = old := by
  ext j hj
  simp [loadedPrefix]

theorem loadedPrefix_all : loadedPrefix new old n = new := by
  ext j hj
  simp [loadedPrefix]

theorem set_loadedPrefix (k : Fin n) : (loadedPrefix new old k).set k new[k] = loadedPrefix new old (k + 1) := by
  ext j hj
  by_cases hjk : k.val = j
  · subst hjk
    simp [loadedPrefix]
  · have hlt : j < k.val + 1 ↔ j < k.val := by omega
    simp only [loadedPrefix, Vector.getElem_set_ne k.isLt hj hjk, Vector.getElem_ofFn, hlt]

end

/-- One load per element of `new`, with the opcode in the upper byte of `base`. -/
def loadEvents {n : Nat} (base : Word) (new : Vector Word n) : List HostEvent :=
  (List.finRange n).map fun j : Fin n => .command (base ||| BitVec.ofNat 32 j) new[j]

/-- Loading every element of a register file, where `put v rs` is the state with the register file `v` and the responses `rs`. -/
theorem load_leadsTo {n : Nat} {base : Word} {op : BitVec 8} {load : Nat → Word → Instr}
    {put : Vector Word n → List Response → State} {new : Vector Word n}
    (hload : ∀ k wd, (load k wd).index? = some k ∧ opcode (load k wd) = op ∧ writeData (load k wd) = wd)
    (hbase : op ++ 0#24 = base) (hn : n ≤ 2 ^ 16)
    (hx : ∀ (k : Fin n) v rs,
      exec (load k new[k]) (put v rs) = .next (put (v.set k new[k]) (rs ++ [⟨0, 0⟩])))
    (old : Vector Word n) (rs : List Response) :
    LeadsTo (loadEvents base new) (put old rs) (put new (rs ++ List.replicate n ⟨0, 0⟩)) := by
  have hall : LeadsTo (loadEvents base new) _ _ :=
    LeadsTo.map_finRange (fun k => put (loadedPrefix new old k) (rs ++ List.replicate k (⟨0, 0⟩ : Response))) fun k => by
      obtain ⟨hidx, hop, hdata⟩ := hload k new[k]
      have hdec := decode_or_index hidx hop hbase (k.isLt.trans_le hn)
      have hk := hx k (loadedPrefix new old k) (rs ++ List.replicate k ⟨0, 0⟩)
      rw [hdata] at hdec
      rw [set_loadedPrefix, List.append_assoc, ← List.replicate_succ'] at hk
      exact LeadsTo.command hdec hk
  rwa [loadedPrefix_zero, loadedPrefix_all, List.replicate_zero, List.append_nil] at hall

/-! #### The indexed commands of unit G, in range -/

theorem exec_ldkey (s : State) (k : Fin 8) (wd : Word) : exec (.ldkey k wd) s = .next ((s.setKey k wd).respond 0) :=
  congrArg Host.Outcome.next (State.withIndex_of_lt k.isLt _)

theorem exec_ldsid (s : State) (k : Fin 2) (wd : Word) : exec (.ldsid k wd) s = .next ((s.setSid k wd).respond 0) :=
  congrArg Host.Outcome.next (State.withIndex_of_lt k.isLt _)

theorem exec_ldpos (s : State) (k : Fin 2) (wd : Word) : exec (.ldpos k wd) s = .next ((s.setPos k wd).respond 0) :=
  congrArg Host.Outcome.next (State.withIndex_of_lt k.isLt _)

theorem exec_rdx (s : State) {k : Nat} (hk : k < 16) : exec (.rdx k) s = .next (s.respond s.x[k]) :=
  congrArg Host.Outcome.next (State.withIndex_of_lt hk _)

/-! #### The parts of the sequence -/

theorem key_leadsTo (s : State) (key : Vector Word 8) :
    LeadsTo (loadEvents 0x10000000 key) s { s with key := key, responses := s.responses ++ List.replicate 8 ⟨0, 0⟩ } :=
  load_leadsTo (put := fun v rs => { s with key := v, responses := rs }) (load := .ldkey) (op := 0x10)
    (fun _ _ => ⟨rfl, rfl, rfl⟩) (by decide) (by decide) (fun k _ _ => exec_ldkey _ k key[k]) s.key s.responses

theorem sid_leadsTo (s : State) (sid : Vector Word 2) :
    LeadsTo (loadEvents 0x11000000 sid) s { s with sid := sid, responses := s.responses ++ List.replicate 2 ⟨0, 0⟩ } :=
  load_leadsTo (put := fun v rs => { s with sid := v, responses := rs }) (load := .ldsid) (op := 0x11)
    (fun _ _ => ⟨rfl, rfl, rfl⟩) (by decide) (by decide) (fun k _ _ => exec_ldsid _ k sid[k]) s.sid s.responses

theorem pos_leadsTo (s : State) (pos : Vector Word 2) :
    LeadsTo (loadEvents 0x12000000 pos) s { s with pos := pos, responses := s.responses ++ List.replicate 2 ⟨0, 0⟩ } :=
  load_leadsTo (put := fun v rs => { s with pos := v, responses := rs }) (load := .ldpos) (op := 0x12)
    (fun _ _ => ⟨rfl, rfl, rfl⟩) (by decide) (by decide) (fun k _ _ => exec_ldpos _ k pos[k]) s.pos s.responses

/-- `s` after the first `k` words of its block have been read. -/
def State.blockRead (s : State) (k : Nat) : State :=
  { s with responses := s.responses ++ (s.x.toList.take k).map fun w => ⟨0, w⟩ }

theorem blockRead_succ (s : State) {k : Nat} (hk : k < 16) :
    LeadsTo [.command (0x14000000#32 ||| BitVec.ofNat 32 k) 0] (s.blockRead k) (s.blockRead (k + 1)) := by
  have hlen : k < s.x.toList.length := by rwa [Vector.length_toList]
  have hread : (s.blockRead k).respond s.x[k] = s.blockRead (k + 1) := by
    simp only [State.blockRead, ← List.take_append_getElem hlen, Vector.getElem_toList, List.map_append, ← List.append_assoc]
    rfl
  rw [← hread]
  exact LeadsTo.command (decode_or_index (i := .rdx k) (op := 0x14) rfl rfl (by decide) (by omega)) (exec_rdx (s.blockRead k) hk)

theorem block_leadsTo (s : State) :
    LeadsTo ((List.range 16).map fun j => .command (0x14000000#32 ||| BitVec.ofNat 32 j) 0) s
      { s with responses := s.responses ++ s.x.toList.map fun w => ⟨0, w⟩ } := by
  have hall := LeadsTo.map_range s.blockRead fun _ hk => blockRead_succ s hk
  have hstart : s.blockRead 0 = s := by
    simp only [State.blockRead, List.take_zero, List.map_nil, List.append_nil]
  have hend : s.x.toList.take 16 = s.x.toList := List.take_of_length_le (by rw [Vector.length_toList])
  rwa [hstart, State.blockRead, hend] at hall

theorem gen_leadsTo (s : State) :
    LeadsTo [.command 0x13000000 0] s ((s.setX (generate s.cfg.slotMap s.key s.sid s.pos)).respond 0) :=
  LeadsTo.command (decode_gen _ rfl) (exec_gen s)

/-- The events of `generate(key, sid, pos)` (30_encoding.md R50). -/
def generateEvents (key : Vector Word 8) (sid pos : Vector Word 2) : List HostEvent :=
  loadEvents 0x10000000 key ++ loadEvents 0x11000000 sid ++ loadEvents 0x12000000 pos ++ [.command 0x13000000 0] ++
    (List.range 16).map fun j => .command (0x14000000#32 ||| BitVec.ofNat 32 j) 0

theorem generateEvents_length (key : Vector Word 8) (sid pos : Vector Word 2) :
    (generateEvents key sid pos).length = 29 := by
  simp only [generateEvents, loadEvents, List.length_append, List.length_map, List.length_finRange, List.length_cons,
    List.length_nil, List.length_range]

/-- `s` after the operands have been loaded and their block generated and read. -/
def State.generated (s : State) (key : Vector Word 8) (sid pos : Vector Word 2) : State :=
  { s with
    key := key
    sid := sid
    pos := pos
    x := generate s.cfg.slotMap key sid pos
    responses := s.responses ++ List.replicate 13 ⟨0, 0⟩ ++
      (generate s.cfg.slotMap key sid pos).toList.map fun w => ⟨0, w⟩ }

theorem generateEvents_leadsTo (s : State) (key : Vector Word 8) (sid pos : Vector Word 2) :
    LeadsTo (generateEvents key sid pos) s (s.generated key sid pos) := by
  have load := ((key_leadsTo s key).append (sid_leadsTo _ sid)).append (pos_leadsTo _ pos)
  have hall := (load.append (gen_leadsTo _)).append (block_leadsTo _)
  have hoks : List.replicate 8 ⟨0, 0⟩ ++ List.replicate 2 ⟨0, 0⟩ ++ List.replicate 2 ⟨0, 0⟩ ++ [⟨0, 0⟩] =
      List.replicate 13 (⟨0, 0⟩ : Response) := rfl
  rw [State.generated, ← hoks]
  simp only [← List.append_assoc]
  exact hall

end Sys2Proof.Machine

namespace Sys2Proof.Proofs

/-- Settles O53: the five parts of the sequence, one after the other. -/
theorem generateContract : Obligations.GenerateContract := by
  intro s key sid pos
  have hrun := (generateEvents_leadsTo s key sid pos).run
  rw [generateEvents_length] at hrun
  exact ⟨_, hrun, rfl, rfl, rfl, rfl, ⟨rfl, rfl⟩, rfl⟩

end Sys2Proof.Proofs
end

/-! ## Proofs of the family 40_system.md -/

/-! ### A row of the opcode map and its illegal words (30_encoding.md R54, R55) -/

section
open Sys2Proof Sys2Proof.Machine

namespace Sys2Proof.Machine

/-- The row of a command without an index, from what the one word of the row decodes to. -/
theorem plainRow_of_decode {op : BitVec 8} {build : Word → Instr} (hplain : op.toNat ∈ plainOpcodeNumbers)
    (hrow : ∀ (cw wd : Word), cw.toNat = op.toNat * 2 ^ 24 → decode cw wd = some (build wd)) : PlainRow op build := by
  intro cw wd s hop
  have htop : cw.toNat / 2 ^ 24 = op.toNat := by rw [← opField_toNat, hop]
  by_cases hzero : cw.toNat % 2 ^ 24 = 0
  · rw [if_pos hzero, runCommand_of_some (hrow cw wd (by omega))]
  · have hill : IllegalWord cw := by
      by_cases hrsv : cw.toNat / 2 ^ 16 % 2 ^ 8 = 0
      · exact .inr (.inr ⟨htop ▸ hplain, by omega⟩)
      · exact .inr (.inl hrsv)
    rw [if_neg hzero, runCommand_of_none ((decode_eq_none_iff cw wd).mpr hill)]
    rfl

/-- The row of a command with an index, from what the words of the row decode to. -/
theorem indexedRow_of_decode {op : BitVec 8} {build : Nat → Word → Instr}
    (hrow : ∀ (cw wd : Word), cw.toNat / 2 ^ 16 * 2 ^ 16 = op.toNat * 2 ^ 24 →
      decode cw wd = some (build (cw.toNat % 2 ^ 16) wd)) : IndexedRow op build := by
  intro cw wd s hop
  have htop : cw.toNat / 2 ^ 24 = op.toNat := by rw [← opField_toNat, hop]
  by_cases hrsv : cw.toNat / 2 ^ 16 % 2 ^ 8 = 0
  · rw [if_pos hrsv, runCommand_of_some (hrow cw wd (by omega))]
  · rw [if_neg hrsv, runCommand_of_none ((decode_eq_none_iff cw wd).mpr (.inr (.inl hrsv)))]
    rfl

end Sys2Proof.Machine
end

/-! ### NOP, RDSR and SRST (40_system.md R70, R71, R72) -/

section
open Sys2Proof Sys2Proof.Machine

namespace Sys2Proof.Machine

theorem delivers_respond (s : State) (v : Word) : Delivers s (s.respond v) 0 v := ⟨rfl, rfl, rfl⟩

/-- A command that only responds is a read. -/
theorem reads_of_respond {i : Instr} {s : State} {v : Word} (h : exec i s = .next (s.respond v)) : Reads i s v :=
  ⟨_, h, delivers_respond s v, sameBlock_refl s⟩

/-- The answer of every indexed command outside its index space (60_exceptions.md R131, R132). -/
theorem raisesIndexRange {i : Instr} {idx bound : Nat} {s : State} (hidx : i.index? = some idx)
    (hbound : s.indexBound? i = some bound) (hle : bound ≤ idx) : RaisesIndexRange i idx s := by
  have hrange : s.indexOutOfRange i = true := by
    simp only [State.indexOutOfRange, hidx, hbound, decide_eq_true hle]
  have hexec := exec_of_indexOutOfRange hrange
  rw [hidx, Option.getD_some] at hexec
  exact ⟨_, hexec, ⟨rfl, rfl, rfl⟩, sameBlock_refl s⟩

theorem rdsr_reads (s : State) (j : Fin 4) : Reads (.rdsr j) s (s.sysReg j) :=
  reads_of_respond (congrArg Host.Outcome.next (State.withIndex_of_lt j.isLt _))

end Sys2Proof.Machine

namespace Sys2Proof.Proofs

/-- Settles O23: the row of NOP, which only responds. -/
theorem nopEffect : Obligations.NopEffect :=
  ⟨plainRow_of_decode (by decide) fun _ wd => decode_nop wd, fun _ => reads_of_respond rfl⟩

/-- Settles O24: the row of RDSR, the four system registers, and the index check. -/
theorem rdsrEffect : Obligations.RdsrEffect :=
  ⟨indexedRow_of_decode fun _ wd => decode_rdsr wd, fun s =>
    ⟨rdsr_reads s 0, rdsr_reads s 1, rdsr_reads s 2, rdsr_reads s 3, fun _ => raisesIndexRange rfl rfl⟩⟩

/-- Settles O25: the row of SRST, and the reset values that `State.clear` leaves. -/
theorem srstEffect : Obligations.SrstEffect :=
  ⟨plainRow_of_decode (by decide) fun _ wd => decode_srst wd, fun s =>
    ⟨_, rfl, delivers_respond s.clear 0, atReset_clear s⟩⟩

end Sys2Proof.Proofs
end

/-! ## Proofs of the family 41_chacha.md -/

/-! ### Register files element by element -/

section
open Sys2Proof Sys2Proof.Machine

namespace Sys2Proof.Machine

theorem ext_fin {n : Nat} {x y : Vector Word n} (h : ∀ j : Fin n, x[j] = y[j]) : x = y := Vector.ext fun j hj => h ⟨j, hj⟩

theorem getElem_set_fin {n : Nat} (v : Vector Word n) (i : Fin n) (w : Word) (j : Fin n) :
    (v.set i w)[j] = if j.val = i.val then w else v[j] := by
  simp only [Fin.getElem_fin, Vector.getElem_set, @eq_comm _ j.val]

theorem finite_words (n : Nat) : Finite (Vector Word n) :=
  Finite.of_injective (fun (v : Vector Word n) (j : Fin n) => v[j]) fun _ _ h => ext_fin (congrFun h)

end Sys2Proof.Machine
end

/-! ### Word arithmetic (41_chacha.md R85) -/

section
open Sys2Proof Sys2Proof.Machine

namespace Sys2Proof.Machine

theorem rotl32_eq_rotateLeft (v : Word) {n : Nat} (hn : n < 32) : rotl32 v n = v.rotateLeft n :=
  (BitVec.rotateLeft_eq_rotateLeftAux_of_lt hn).symm

theorem rotl32_getLsbD (v : Word) {n i : Nat} (hn : n < 32) (hi : i < 32) :
    (rotl32 v n).getLsbD i = v.getLsbD ((i + 32 - n) % 32) := by
  rw [rotl32_eq_rotateLeft v hn, BitVec.getLsbD_rotateLeft, Nat.mod_eq_of_lt hn]
  by_cases hlow : i < n
  · have hsrc : (i + 32 - n) % 32 = 32 - n + i := by omega
    rw [decide_eq_true hlow, cond_true, hsrc]
  · have hsrc : (i + 32 - n) % 32 = i - n := by omega
    rw [decide_eq_false hlow, cond_false, decide_eq_true hi, Bool.true_and, hsrc]

/-- A rotation loses no bit: bit `i` of `v` is bit `i + n` modulo 32 of the result. -/
theorem rotl32_injective {n : Nat} (hn : n < 32) : Function.Injective fun v => rotl32 v n := by
  intro v w (h : rotl32 v n = rotl32 w n)
  apply BitVec.eq_of_getLsbD_eq
  intro i hi
  have hback : ((i + n) % 32 + 32 - n) % 32 = i := by omega
  have hlt : (i + n) % 32 < 32 := Nat.mod_lt _ (by decide)
  have hv := rotl32_getLsbD v hn hlt
  have hw := rotl32_getLsbD w hn hlt
  rw [hback] at hv hw
  rw [← hv, ← hw, h]

end Sys2Proof.Machine

namespace Sys2Proof.Proofs

/-- Settles O31: the rotation bit by bit, and the library's laws of addition and exclusive or. -/
theorem wordArithmetic : Obligations.WordArithmetic :=
  ⟨fun v _ _ _ hn hi => rotl32_getLsbD v hn hi, BitVec.toNat_add, fun _ _ _ => BitVec.getLsbD_xor⟩

end Sys2Proof.Proofs
end

/-! ### The quarter-round (41_chacha.md R86) -/

section
open Sys2Proof Sys2Proof.Machine

namespace Sys2Proof.Machine

/-! #### QR on four words -/

/-- QR as a function of one tuple. -/
def qrWords (w : Word × Word × Word × Word) : Word × Word × Word × Word := qr w.1 w.2.1 w.2.2.1 w.2.2.2

/-- Six of the twelve steps of QR: both halves have this form and differ in the two rotations. -/
def halfQr (m n : Nat) (w : Word × Word × Word × Word) : Word × Word × Word × Word :=
  let a := add32 w.1 w.2.1
  let d := rotl32 (xor32 w.2.2.2 a) m
  let c := add32 w.2.2.1 d
  let b := rotl32 (xor32 w.2.1 c) n
  (a, b, c, d)

theorem qrWords_eq_halfQr : qrWords = halfQr 8 7 ∘ halfQr 16 12 := rfl

/-- The steps undone from the last to the first, each by the words that it does not change. -/
theorem halfQr_injective {m n : Nat} (hm : m < 32) (hn : n < 32) : Function.Injective (halfQr m n) := by
  rintro ⟨a, b, c, d⟩ ⟨a', b', c', d'⟩ h
  simp only [halfQr, add32, xor32, Prod.mk.injEq] at h
  obtain ⟨ha, hb, hc, hd⟩ := h
  rw [hc] at hb
  obtain rfl : b = b' := (BitVec.xor_left_inj _).mp (rotl32_injective hn hb)
  rw [hd] at hc
  obtain rfl : c = c' := add_right_cancel hc
  rw [ha] at hd
  obtain rfl : d = d' := (BitVec.xor_left_inj _).mp (rotl32_injective hm hd)
  obtain rfl : a = a' := add_right_cancel ha
  rfl

theorem qrWords_injective : Function.Injective qrWords :=
  qrWords_eq_halfQr ▸ (halfQr_injective (by decide) (by decide)).comp (halfQr_injective (by decide) (by decide))

theorem qr_eq_steps {a b c d a₁ b₁ c₁ d₁ a₂ b₂ c₂ d₂ : Word}
    (ha₁ : a₁ = a + b) (hd₁ : d₁ = (d ^^^ a₁).rotateLeft 16) (hc₁ : c₁ = c + d₁) (hb₁ : b₁ = (b ^^^ c₁).rotateLeft 12)
    (ha₂ : a₂ = a₁ + b₁) (hd₂ : d₂ = (d₁ ^^^ a₂).rotateLeft 8) (hc₂ : c₂ = c₁ + d₂) (hb₂ : b₂ = (b₁ ^^^ c₂).rotateLeft 7) :
    qr a b c d = (a₂, b₂, c₂, d₂) := by
  subst ha₁ hd₁ hc₁ hb₁ ha₂ hd₂ hc₂ hb₂
  rfl

/-! #### QR at four places of the state -/

/-- Four places of the state, in the order in which QR takes them. -/
structure Places where
  i : Fin 16
  j : Fin 16
  k : Fin 16
  l : Fin 16

/-- The four places as a list. -/
def Places.toList (p : Places) : List (Fin 16) := [p.i, p.j, p.k, p.l]

/-- The words of the state at the four places. -/
def Places.words (p : Places) (x : Vector Word 16) : Word × Word × Word × Word := (x[p.i], x[p.j], x[p.k], x[p.l])

/-- "`QR at (i, j, k, l)`". -/
def Places.mix (p : Places) (x : Vector Word 16) : Vector Word 16 := qrAt p.i p.j p.k p.l x

theorem Places.mem_toList {p : Places} {m : Fin 16} : m ∈ p.toList ↔ m = p.i ∨ m = p.j ∨ m = p.k ∨ m = p.l := by
  simp only [toList, List.mem_cons, List.not_mem_nil, or_false]

theorem Places.words_eq_iff {p : Places} {x y : Vector Word 16} :
    p.words x = p.words y ↔ ∀ m ∈ p.toList, x[m] = y[m] := by
  simp only [words, Prod.mk.injEq, mem_toList, forall_eq_or_imp, forall_eq]

theorem Places.mix_getElem_of_not_mem {p : Places} {m : Fin 16} (hm : m ∉ p.toList) (x : Vector Word 16) :
    (p.mix x)[m] = x[m] := by
  simp only [mem_toList, not_or, Fin.ext_iff] at hm
  obtain ⟨hi, hj, hk, hl⟩ := hm
  exact qrAt_getElem_of_ne x m.isLt hi hj hk hl

theorem Places.words_mix {p : Places} (hp : p.toList.Nodup) (x : Vector Word 16) :
    p.words (p.mix x) = qrWords (p.words x) := by
  simp only [toList, List.nodup_cons, List.mem_cons, List.not_mem_nil, or_false, not_or, Fin.ext_iff] at hp
  obtain ⟨⟨hij, hik, hil⟩, ⟨hjk, hjl⟩, hkl, -⟩ := hp
  simp [words, mix, qrWords, qrAt_getElem, hij, hik, hil, hjk, hjl, hkl]

/-- Places outside those of a quarter-round keep their words. -/
theorem Places.words_mix_of_disjoint {p q : Places} (h : p.toList.Disjoint q.toList) (x : Vector Word 16) :
    p.words (q.mix x) = p.words x :=
  words_eq_iff.mpr fun _ hm => mix_getElem_of_not_mem (h hm) x

/-- A word after a quarter-round is a function of that word and of the four words at its places. -/
theorem Places.mix_getElem_congr {p : Places} {x y : Vector Word 16} (hwords : p.words x = p.words y) {m : Fin 16}
    (hm : x[m] = y[m]) : (p.mix x)[m] = (p.mix y)[m] := by
  simp only [words, Prod.mk.injEq] at hwords
  obtain ⟨hi, hj, hk, hl⟩ := hwords
  simp only [mix, Fin.getElem_fin, qrAt_getElem] at hi hj hk hl hm ⊢
  rw [hi, hj, hk, hl, hm]

theorem Places.mix_injective {p : Places} (hp : p.toList.Nodup) : Function.Injective p.mix := by
  intro x y h
  have hwords : p.words x = p.words y := qrWords_injective (by rw [← words_mix hp, ← words_mix hp, h])
  refine ext_fin fun m => ?_
  by_cases hin : m ∈ p.toList
  · exact words_eq_iff.mp hwords m hin
  · have hx := mix_getElem_of_not_mem hin x
    rw [h, mix_getElem_of_not_mem hin y] at hx
    exact hx.symm

end Sys2Proof.Machine

namespace Sys2Proof.Proofs

/-- Settles O32: QR is two halves of six steps, each of which can be undone. -/
theorem quarterRound : Obligations.QuarterRound :=
  ⟨fun _ _ _ _ _ _ _ _ _ _ _ _ => qr_eq_steps,
    fun i j k l x hp => ⟨Places.words_mix (p := ⟨i, j, k, l⟩) hp x,
      fun _ hm => Places.mix_getElem_of_not_mem (p := ⟨i, j, k, l⟩) hm x⟩,
    qrWords_injective.bijective_of_finite, by decide, by decide⟩

end Sys2Proof.Proofs
end

/-! ### Rounds as quarter-rounds at disjoint places (41_chacha.md R88, R89) -/

section
open Sys2Proof Sys2Proof.Machine

namespace Sys2Proof.Machine

/-- Away from the places of one of two quarter-rounds, their order does not count. -/
theorem Places.mix_mix_getElem {p q : Places} (h : p.toList.Disjoint q.toList) {m : Fin 16} (hm : m ∉ q.toList)
    (x : Vector Word 16) : (p.mix (q.mix x))[m] = (q.mix (p.mix x))[m] := by
  rw [mix_getElem_of_not_mem hm (p.mix x)]
  exact mix_getElem_congr (words_mix_of_disjoint h x) (mix_getElem_of_not_mem hm x)

theorem Places.mix_comm {p q : Places} (h : p.toList.Disjoint q.toList) (x : Vector Word 16) :
    p.mix (q.mix x) = q.mix (p.mix x) := by
  refine ext_fin fun m => ?_
  by_cases hin : m ∈ q.toList
  · exact (mix_mix_getElem h.symm (fun hp => h hp hin) x).symm
  · exact mix_mix_getElem h hin x

/-- Quarter-rounds at several places, one after the other. -/
def mixAll (ps : List Places) (x : Vector Word 16) : Vector Word 16 := ps.foldl (fun y p => p.mix y) x

theorem mixAll_cons (p : Places) (ps : List Places) (x : Vector Word 16) : mixAll (p :: ps) x = mixAll ps (p.mix x) := rfl

theorem mixAll_getElem_of_not_mem {ps : List Places} {m : Fin 16} (hm : m ∉ ps.flatMap Places.toList) (x : Vector Word 16) :
    (mixAll ps x)[m] = x[m] := by
  induction ps generalizing x with
  | nil => rfl
  | cons p ps ih =>
    rw [List.flatMap_cons, List.mem_append, not_or] at hm
    obtain ⟨hp, hps⟩ := hm
    rw [mixAll_cons, ih hps, Places.mix_getElem_of_not_mem hp]

/-- Where no place occurs twice, each four words of the result are QR of the four words that stood there. -/
theorem words_mixAll {ps : List Places} (hnodup : (ps.flatMap Places.toList).Nodup) {p : Places} (hp : p ∈ ps)
    (x : Vector Word 16) : p.words (mixAll ps x) = qrWords (p.words x) := by
  induction ps generalizing x with
  | nil => cases hp
  | cons q ps ih =>
    rw [List.flatMap_cons, List.nodup_append'] at hnodup
    obtain ⟨hq, hps, hdisj⟩ := hnodup
    rw [mixAll_cons]
    rcases List.mem_cons.mp hp with rfl | hin
    · have hkeep : p.words (mixAll ps (p.mix x)) = p.words (p.mix x) :=
        Places.words_eq_iff.mpr fun _ hm => mixAll_getElem_of_not_mem (hdisj hm) _
      rw [hkeep, Places.words_mix hq]
    · have hpq : p.toList.Disjoint q.toList := fun _ hmp hmq => hdisj hmq (List.mem_flatMap.mpr ⟨p, hin, hmp⟩)
      rw [ih hps hin, Places.words_mix_of_disjoint hpq]

theorem mixAll_injective {ps : List Places} (hnodup : (ps.flatMap Places.toList).Nodup) : Function.Injective (mixAll ps) := by
  induction ps with
  | nil => exact Function.injective_id
  | cons p ps ih =>
    rw [List.flatMap_cons, List.nodup_append'] at hnodup
    obtain ⟨hp, hps, -⟩ := hnodup
    exact (ih hps).comp (Places.mix_injective hp)

/-! #### The two rounds -/

/-- The place of row `r` and column `c` modulo 4 of the matrix view. -/
def matrixPlace (r c : Nat) : Fin 16 := Fin.ofNat 16 (4 * r + c % 4)

/-- Column `c` of the matrix view, rows in order. -/
def column (c : Nat) : Places := ⟨matrixPlace 0 c, matrixPlace 1 c, matrixPlace 2 c, matrixPlace 3 c⟩

/-- The wrapped diagonal `c` of the matrix view, rows in order. -/
def diagonal (c : Nat) : Places := ⟨matrixPlace 0 c, matrixPlace 1 (c + 1), matrixPlace 2 (c + 2), matrixPlace 3 (c + 3)⟩

theorem matrixWord_eq_getElem (x : Vector Word 16) {r : Nat} (hr : r < 4) (c : Nat) :
    matrixWord x r c = x[matrixPlace r c] := by
  have hlt : 4 * r + c % 4 < 16 := by omega
  simp [matrixWord, matrixPlace, Nat.mod_eq_of_lt hlt, Array.getD_eq_getD_getElem?, hlt]

theorem column_words (x : Vector Word 16) (c : Nat) :
    (column c).words x = (matrixWord x 0 c, matrixWord x 1 c, matrixWord x 2 c, matrixWord x 3 c) := by
  simp (disch := decide) only [matrixWord_eq_getElem, column, Places.words]

theorem diagonal_words (x : Vector Word 16) (c : Nat) : (diagonal c).words x =
    (matrixWord x 0 c, matrixWord x 1 (c + 1), matrixWord x 2 (c + 2), matrixWord x 3 (c + 3)) := by
  simp (disch := decide) only [matrixWord_eq_getElem, diagonal, Places.words]

theorem colRound_eq_mixAll : colRound = mixAll ((List.range 4).map column) := rfl

theorem diagRound_eq_mixAll : diagRound = mixAll ((List.range 4).map diagonal) := rfl

theorem columns_nodup : (((List.range 4).map column).flatMap Places.toList).Nodup := by decide

theorem diagonals_nodup : (((List.range 4).map diagonal).flatMap Places.toList).Nodup := by decide

theorem column_words_colRound (x : Vector Word 16) {c : Nat} (hc : c < 4) :
    (column c).words (colRound x) = qrWords ((column c).words x) :=
  words_mixAll columns_nodup (List.mem_map_of_mem (List.mem_range.mpr hc)) x

theorem diagonal_words_diagRound (x : Vector Word 16) {c : Nat} (hc : c < 4) :
    (diagonal c).words (diagRound x) = qrWords ((diagonal c).words x) :=
  words_mixAll diagonals_nodup (List.mem_map_of_mem (List.mem_range.mpr hc)) x

end Sys2Proof.Machine

namespace Sys2Proof.Proofs

/-- Settles O33: the columns, and likewise the wrapped diagonals, name no place twice. -/
theorem roundsOfTheMatrixView : Obligations.RoundsOfTheMatrixView := by
  constructor
  · intro i j k l i' j' k' l' x hnodup
    exact Places.mix_comm (p := ⟨i, j, k, l⟩) (q := ⟨i', j', k', l'⟩) (List.Nodup.disjoint hnodup) x
  · intro x c hc
    have hcol := column_words_colRound x hc
    have hdiag := diagonal_words_diagRound x hc
    simp only [column_words] at hcol
    simp only [diagonal_words] at hdiag
    exact ⟨hcol, hdiag⟩

end Sys2Proof.Proofs
end

/-! ### PERM8 (41_chacha.md R90, R91) -/

section
open Sys2Proof Sys2Proof.Machine

namespace Sys2Proof.Machine

theorem perm8_eq_iterate : perm8 = (fun x => diagRound (colRound x))^[4] := rfl

theorem colRound_injective : Function.Injective colRound := colRound_eq_mixAll ▸ mixAll_injective columns_nodup

theorem diagRound_injective : Function.Injective diagRound := diagRound_eq_mixAll ▸ mixAll_injective diagonals_nodup

theorem perm8_injective : Function.Injective perm8 := by
  rw [perm8_eq_iterate]
  exact (diagRound_injective.comp colRound_injective).iterate 4

end Sys2Proof.Machine

namespace Sys2Proof.Proofs

/-- Settles O34: every round is injective, and the set of states is finite. -/
theorem permutationIsBijective : Obligations.PermutationIsBijective :=
  have := finite_words 16
  ⟨congrFun perm8_eq_iterate, perm8_injective.bijective_of_finite⟩

end Sys2Proof.Proofs
end

/-! ### The initial state and its two layouts (41_chacha.md R87, R93, R94) -/

section
open Sys2Proof Sys2Proof.Machine

namespace Sys2Proof.Machine

theorem initState_exchange (key : Vector Word 8) (a b : Vector Word 2) :
    initState .sidFirst key a b = initState .posFirst key b a := rfl

theorem generate_exchange (key : Vector Word 8) (a b : Vector Word 2) :
    generate .sidFirst key a b = generate .posFirst key b a := by
  simp only [generate, initState_exchange]

theorem initState_key (m : SlotMap) (key : Vector Word 8) (sid pos : Vector Word 2) (j : Fin 8) :
    (initState m key sid pos)[4 + j.val] = key[j] := by
  fin_cases j <;> rfl

theorem initState_sidFirst_sid (key : Vector Word 8) (sid pos : Vector Word 2) (j : Fin 2) :
    (initState .sidFirst key sid pos)[12 + j.val] = sid[j] := by
  fin_cases j <;> rfl

theorem initState_sidFirst_pos (key : Vector Word 8) (sid pos : Vector Word 2) (j : Fin 2) :
    (initState .sidFirst key sid pos)[14 + j.val] = pos[j] := by
  fin_cases j <;> rfl

theorem initState_sidFirst_inj {key key' : Vector Word 8} {sid sid' pos pos' : Vector Word 2}
    (h : initState .sidFirst key sid pos = initState .sidFirst key' sid' pos') : key = key' ∧ sid = sid' ∧ pos = pos' := by
  refine ⟨ext_fin fun j => ?_, ext_fin fun j => ?_, ext_fin fun j => ?_⟩
  · rw [← initState_key .sidFirst key sid pos, ← initState_key .sidFirst key' sid' pos']
    simp only [h]
  · rw [← initState_sidFirst_sid key sid pos, ← initState_sidFirst_sid key' sid' pos']
    simp only [h]
  · rw [← initState_sidFirst_pos key sid pos, ← initState_sidFirst_pos key' sid' pos']
    simp only [h]

theorem initState_zero (m : SlotMap) : ∀ j : Fin 16, 4 ≤ j.val →
    (initState m (Vector.replicate 8 0) (Vector.replicate 2 0) (Vector.replicate 2 0))[j] = 0 := by
  cases m <;> decide

end Sys2Proof.Machine

namespace Sys2Proof.Proofs

/-- Settles O35: the slots under SID_FIRST; POS_FIRST is the same with the two pairs exchanged. -/
theorem initialStateSlots : Obligations.InitialStateSlots := by
  intro m key sid pos
  cases m with
  | sidFirst =>
    exact ⟨rfl, rfl, rfl, rfl, initState_key _ key sid pos, initState_sidFirst_sid key sid pos, initState_sidFirst_pos key sid pos⟩
  | posFirst =>
    exact ⟨rfl, rfl, rfl, rfl, initState_key _ key sid pos, initState_sidFirst_sid key pos sid, initState_sidFirst_pos key pos sid⟩

/-- Settles O36: every element of an operand stands in a slot of the initial state. -/
theorem initialStateIsInjective : Obligations.InitialStateIsInjective := by
  intro m key key' sid sid' pos pos' h
  cases m with
  | sidFirst => exact initState_sidFirst_inj h
  | posFirst =>
    rw [← initState_exchange, ← initState_exchange] at h
    obtain ⟨hkey, hpos, hsid⟩ := initState_sidFirst_inj h
    exact ⟨hkey, hsid, hpos⟩

/-- Settles O37: the exchange already in INIT; and the feed-forward of a zero word changes nothing. -/
theorem slotMapExchangesOperands : Obligations.SlotMapExchangesOperands := by
  refine ⟨generate_exchange, fun m j hj => ?_⟩
  have hzero := initState_zero m j hj
  rw [Fin.getElem_fin] at hzero ⊢
  rw [generate_getElem, hzero]
  exact BitVec.add_zero _

end Sys2Proof.Proofs
end

/-! ### LDKEY, LDSID, LDPOS, GEN and RDX (41_chacha.md R80 to R84) -/

section
open Sys2Proof Sys2Proof.Machine

namespace Sys2Proof.Proofs

/-- Settles O26: the row of LDKEY, the one element written, and the index check. -/
theorem ldkeyEffect : Obligations.LdkeyEffect := by
  refine ⟨indexedRow_of_decode fun _ wd => decode_ldkey wd, fun s idx wd => ⟨fun h => ?_, raisesIndexRange rfl rfl⟩⟩
  exact ⟨_, exec_ldkey s ⟨idx, h⟩ wd, delivers_respond _ 0, getElem_set_fin s.key ⟨idx, h⟩ wd, rfl, rfl, rfl, rfl, rfl⟩

/-- Settles O27: the rows of LDSID and LDPOS, the one half written, and the index check. -/
theorem ldsidAndLdposEffect : Obligations.LdsidAndLdposEffect := by
  refine ⟨indexedRow_of_decode fun _ wd => decode_ldsid wd, indexedRow_of_decode fun _ wd => decode_ldpos wd,
    fun s idx wd => ⟨fun h => ?_, fun h => ?_, fun h => ⟨raisesIndexRange rfl rfl h, raisesIndexRange rfl rfl h⟩⟩⟩
  · exact ⟨_, exec_ldsid s ⟨idx, h⟩ wd, delivers_respond _ 0, getElem_set_fin s.sid ⟨idx, h⟩ wd, rfl, rfl, rfl, rfl, rfl⟩
  · exact ⟨_, exec_ldpos s ⟨idx, h⟩ wd, delivers_respond _ 0, getElem_set_fin s.pos ⟨idx, h⟩ wd, rfl, rfl, rfl, rfl, rfl⟩

/-- Settles O28: the row of GEN, which leaves the block of the operands in X. -/
theorem genEffect : Obligations.GenEffect :=
  ⟨plainRow_of_decode (by decide) fun _ wd => decode_gen wd, fun s =>
    ⟨_, exec_gen s, delivers_respond _ 0, fun j => generate_getElem _ _ _ _ j.val j.isLt, rfl, rfl, rfl, rfl, rfl⟩⟩

/-- Settles O29: the row of RDX, which only responds, and the index check. -/
theorem rdxEffect : Obligations.RdxEffect :=
  ⟨indexedRow_of_decode fun _ wd => decode_rdx wd, fun s =>
    ⟨fun j => reads_of_respond (exec_rdx s j.isLt), fun _ => raisesIndexRange rfl rfl⟩⟩

/-- Settles O30: the block of the reset operands, evaluated in each layout. -/
theorem genOnResetState : Obligations.GenOnResetState := by
  intro m
  refine ⟨_, exec_gen _, ?_⟩
  cases m <;> decide +kernel

end Sys2Proof.Proofs
end

/-! ## Proofs of the family 42_base64.md -/

/-! ### The tables and the character classes (42_base64.md R100 to R102) -/

section
open Sys2Proof Sys2Proof.Machine

namespace Sys2Proof.Machine

/-! #### ELUT by its ranges -/

theorem elut_toNat_upper {v : BitVec 6} (h : v.toNat ≤ 25) : (elut v).toNat = 0x41 + v.toNat := by
  simp only [elut, if_pos h, BitVec.toNat_ofNat]
  omega

theorem elut_toNat_lower {v : BitVec 6} (hlo : 26 ≤ v.toNat) (hhi : v.toNat ≤ 51) :
    (elut v).toNat = 0x61 + (v.toNat - 26) := by
  simp only [elut, if_neg (Nat.not_le.mpr hlo), if_pos hhi, BitVec.toNat_ofNat]
  omega

theorem elut_toNat_digit {v : BitVec 6} (hlo : 52 ≤ v.toNat) (hhi : v.toNat ≤ 61) :
    (elut v).toNat = 0x30 + (v.toNat - 52) := by
  have hupper : ¬ v.toNat ≤ 25 := by omega
  simp only [elut, if_neg hupper, if_neg (Nat.not_le.mpr hlo), if_pos hhi, BitVec.toNat_ofNat]
  omega

/-! #### DLUT inverts ELUT

The facts about one table entry are evaluated, once over the 64 sextets or over the 256 characters; the rest follows. -/

theorem dlut_elut : ∀ v : BitVec 6, dlut (elut v) = 0x40#8 ||| v.setWidth 8 := by decide +kernel

@[simp] theorem charClass_elut : ∀ v : BitVec 6, charClass (elut v) = .data := by decide +kernel

@[simp] theorem sextet_elut : ∀ v : BitVec 6, sextet (elut v) = v := by decide +kernel

@[simp] theorem charClass_padChar : charClass padChar = .pad := by decide

@[simp] theorem sextet_padChar : sextet padChar = 0 := by decide

theorem charClass_eq_pad_iff : ∀ c : Byte, charClass c = .pad ↔ c = padChar := by decide +kernel

theorem charClass_eq_invalid_iff : ∀ c : Byte, charClass c = .invalid ↔ dlut c = 0 := by decide +kernel

theorem elut_sextet : ∀ c : Byte, charClass c = .data → elut (sextet c) = c := by decide +kernel

/-- The class as it stands in bits [7:6] of a DLUT entry (10_state.md R21). -/
def CharClass.bits : CharClass → BitVec 2
  | .invalid => 0b00
  | .data => 0b01
  | .pad => 0b10

theorem dlut_eq_bits_append_sextet : ∀ c : Byte, dlut c = (charClass c).bits ++ sextet c := by decide +kernel

theorem charClass_eq_data_iff (c : Byte) : charClass c = .data ↔ ∃ v : BitVec 6, elut v = c := by
  constructor
  · exact fun h => ⟨sextet c, elut_sextet c h⟩
  · rintro ⟨v, rfl⟩
    exact charClass_elut v

/-- Invalid is neither pad nor data. -/
theorem charClass_eq_invalid_iff_not_mem (c : Byte) :
    charClass c = .invalid ↔ c ≠ padChar ∧ ∀ v : BitVec 6, elut v ≠ c := by
  rw [← not_exists, ← charClass_eq_data_iff, ne_eq, ← charClass_eq_pad_iff]
  cases charClass c <;> decide

end Sys2Proof.Machine

namespace Sys2Proof.Proofs

/-- Settles O38: ELUT range by range, and DLUT is 0 exactly on the invalid characters. -/
theorem tablesAreInverse : Obligations.TablesAreInverse :=
  ⟨fun _ => elut_toNat_upper, fun _ => elut_toNat_lower, fun _ => elut_toNat_digit, by decide, by decide, dlut_elut,
    by decide, fun c hpad hdata =>
      (charClass_eq_invalid_iff c).mp ((charClass_eq_invalid_iff_not_mem c).mpr ⟨hpad, hdata⟩)⟩

/-- Settles O39, class by class. -/
theorem characterClasses : Obligations.CharacterClasses := by
  refine fun c => ⟨charClass_eq_data_iff c, charClass_eq_pad_iff c, charClass_eq_invalid_iff_not_mem c, ?_,
    sextet_padChar, dlut_eq_bits_append_sextet c⟩
  rintro v rfl
  exact sextet_elut v

end Sys2Proof.Proofs
end

/-! ### ENCODE by index (42_base64.md R106) -/

section
open Sys2Proof Sys2Proof.Machine

namespace Sys2Proof.Machine

/-- What a text holds from `n` on is read at `n` and after. -/
theorem getElem?_of_drop_eq {l u w : List Byte} {n : Nat} (h : l.drop n = u ++ w) {k : Nat} (hk : k < u.length) :
    l[n + k]? = u[k]? := by
  rw [← List.getElem?_drop, h, List.getElem?_append_left hk]

theorem drop_of_getElem? {l : List Byte} {n : Nat} {x : Byte} (h : l[n]? = some x) : l.drop n = x :: l.drop (n + 1) := by
  obtain ⟨hn, rfl⟩ := List.getElem?_eq_some_iff.mp h
  exact List.drop_eq_getElem_cons hn

/-- ENCODE takes full groups off one by one, so that a prefix of full groups is encoded by itself. -/
theorem b64Encode_append {u : List Byte} (w : List Byte) (h : u.length % 3 = 0) :
    b64Encode (u ++ w) = b64Encode u ++ b64Encode w := by
  induction u using threes_induction with
  | nil => simp
  | one a => simp at h
  | two a b => simp at h
  | group a b c rest ih =>
    have hrest : rest.length % 3 = 0 := (Nat.add_mod_right rest.length 3).symm.trans h
    simp only [List.cons_append, b64Encode_group, ih hrest, List.append_assoc]

/-- After the characters of `g` full groups comes the encoding of the bytes after them. -/
theorem b64Encode_drop {b : List Byte} {g : Nat} (h : 3 * g ≤ b.length) :
    (b64Encode b).drop (4 * g) = b64Encode (b.drop (3 * g)) := by
  have hlen : (b.take (3 * g)).length = 3 * g := List.length_take_of_le h
  have hchars : (b64Encode (b.take (3 * g))).length = 4 * g := by
    rw [b64Encode_length, hlen]
    omega
  conv_lhs => rw [← List.take_append_drop (3 * g) b, b64Encode_append _ (by omega)]
  exact List.drop_left' hchars

/-- The four characters that the bytes from group `g` on begin with stand at `4 g` and after. -/
theorem b64Encode_getElem?_of_drop {b w rest : List Byte} {g : Nat} {c₀ c₁ c₂ c₃ : Byte} (h : b.drop (3 * g) = w)
    (hw : w ≠ []) (henc : b64Encode w = [c₀, c₁, c₂, c₃] ++ rest) :
    (b64Encode b)[4 * g]? = some c₀ ∧ (b64Encode b)[4 * g + 1]? = some c₁ ∧ (b64Encode b)[4 * g + 2]? = some c₂ ∧
      (b64Encode b)[4 * g + 3]? = some c₃ := by
  have hlen : 3 * g < b.length := List.length_lt_of_drop_ne_nil (h ▸ hw)
  have hdrop : (b64Encode b).drop (4 * g) = [c₀, c₁, c₂, c₃] ++ rest := by rw [b64Encode_drop hlen.le, h, henc]
  have hat (k : Nat) (hk : k < 4) : (b64Encode b)[4 * g + k]? = [c₀, c₁, c₂, c₃][k]? := getElem?_of_drop_eq hdrop hk
  exact ⟨hat 0 (by decide), hat 1 (by decide), hat 2 (by decide), hat 3 (by decide)⟩

end Sys2Proof.Machine

namespace Sys2Proof.Proofs

/-- Settles O40: the length law, and in each clause the first four characters of the bytes from group `g` on. -/
theorem encodeByIndex : Obligations.EncodeByIndex := by
  refine fun b => ⟨b64Encode_length b, ?_, ?_, ?_⟩
  · rintro g x y z hx hy hz v rfl
    have hdrop : b.drop (3 * g) = x :: y :: z :: b.drop (3 * g + 3) := by
      rw [drop_of_getElem? hx, drop_of_getElem? hy, drop_of_getElem? hz]
    exact b64Encode_getElem?_of_drop hdrop (List.cons_ne_nil _ _) (b64Encode_group x y z _)
  · rintro g x hlen hx v rfl
    have hdrop : b.drop (3 * g) = [x] := by rw [drop_of_getElem? hx, List.drop_of_length_le hlen.le]
    exact b64Encode_getElem?_of_drop hdrop (List.cons_ne_nil _ _) (b64Encode_one x)
  · rintro g x y hlen hx hy v rfl
    have hdrop : b.drop (3 * g) = [x, y] := by
      rw [drop_of_getElem? hx, drop_of_getElem? hy, List.drop_of_length_le hlen.le]
    exact b64Encode_getElem?_of_drop hdrop (List.cons_ne_nil _ _) (b64Encode_two x y)

end Sys2Proof.Proofs
end

/-! ### DECODE_CHECK (42_base64.md R108) -/

section
open Sys2Proof Sys2Proof.Machine

namespace Sys2Proof.Machine

/-- The shape of the texts that pass the character check: data characters and then at most two pads (42_base64.md R108). -/
def DataThenPads (t : List Byte) : Prop :=
  ∃ (d : List Byte) (p : Nat), p ≤ 2 ∧ t = d ++ List.replicate p padChar ∧ ∀ c ∈ d, charClass c = .data

theorem dataThenPads_pads {p : Nat} (hp : p ≤ 2) : DataThenPads (List.replicate p padChar) :=
  ⟨[], p, hp, rfl, List.forall_mem_nil _⟩

theorem dataThenPads_cons_iff (c : Byte) (t : List Byte) : DataThenPads (c :: t) ↔
    (charClass c = .data ∧ DataThenPads t) ∨ (c = padChar ∧ (t = [] ∨ t = [padChar])) := by
  constructor
  · rintro ⟨_ | ⟨a, d⟩, p, hp, ht, hd⟩
    · right
      obtain _ | _ | _ | p := p
      · cases ht
      · exact ⟨(List.cons.inj ht).1, .inl (List.cons.inj ht).2⟩
      · exact ⟨(List.cons.inj ht).1, .inr (List.cons.inj ht).2⟩
      · omega
    · obtain ⟨rfl, rfl⟩ := List.cons.inj ht
      obtain ⟨hc, hd⟩ := List.forall_mem_cons.mp hd
      exact .inl ⟨hc, d, p, hp, rfl, hd⟩
  · rintro (⟨hc, d, p, hp, rfl, hd⟩ | ⟨rfl, rfl | rfl⟩)
    · exact ⟨c :: d, p, hp, rfl, List.forall_mem_cons.mpr ⟨hc, hd⟩⟩
    · exact dataThenPads_pads (p := 1) (by decide)
    · exact dataThenPads_pads (p := 2) (by decide)

/-! #### Offenders, character by character -/

/-- Where a pad may stand is counted from the end, so a further first character does not matter. -/
theorem offends_cons_succ (c : Byte) (t : List Byte) (i : Nat) : Offends (c :: t) (i + 1) ↔ Offends t i := by
  simp only [Offends, List.getElem?_cons_succ, List.length_cons, ne_eq, Nat.add_right_cancel_iff, Nat.add_right_comm i 1 2]

/-- The first character passes as data, or as a pad that is the last character or stands before one last pad. -/
theorem not_offends_cons_zero_iff (c : Byte) (t : List Byte) : ¬ Offends (c :: t) 0 ↔
    charClass c = .data ∨ (c = padChar ∧ (t = [] ∨ t = [padChar])) := by
  have hlast : 1 = t.length + 1 ↔ t = [] := by
    rw [← List.length_eq_zero_iff]
    omega
  have hpair : (2 = t.length + 1 ∧ ∃ d, t[0]? = some d ∧ charClass d = .pad) ↔ t = [padChar] := by
    simp only [charClass_eq_pad_iff]
    match t with
    | [] => simp
    | [d] => simp
    | d :: e :: rest => simp
  simp only [Offends, List.getElem?_cons_zero, Option.some.injEq, exists_eq_left', List.length_cons, Nat.zero_add,
    List.getElem?_cons_succ, hlast, hpair, ne_eq, ← charClass_eq_pad_iff c]
  cases charClass c <;> simp [or_iff_not_imp_left]

/-- A text has no offender iff its first character is none and the rest has none. -/
theorem forall_not_offends_cons_iff (c : Byte) (t : List Byte) :
    (∀ i, ¬ Offends (c :: t) i) ↔ ¬ Offends (c :: t) 0 ∧ ∀ i, ¬ Offends t i := by
  rw [← Nat.and_forall_add_one]
  simp only [offends_cons_succ]

theorem forall_not_offends_iff (t : List Byte) : (∀ i, ¬ Offends t i) ↔ DataThenPads t := by
  induction t with
  | nil => exact iff_of_true (fun i => by simp [Offends]) (dataThenPads_pads (p := 0) (by decide))
  | cons c t ih =>
    have hpads : c = padChar ∧ (t = [] ∨ t = [padChar]) → DataThenPads t := by
      rintro ⟨-, rfl | rfl⟩
      · exact dataThenPads_pads (p := 0) (by decide)
      · exact dataThenPads_pads (p := 1) (by decide)
    rw [forall_not_offends_cons_iff, ih, not_offends_cons_zero_iff, dataThenPads_cons_iff, or_and_right,
      and_iff_left_of_imp hpads]

/-! #### The outcomes -/

theorem firstOffender_eq_none_iff {t : List Byte} : firstOffender t = none ↔ ∀ i, ¬ Offends t i := by
  constructor
  · intro hnone i
    induction i using Nat.strong_induction_on with
    | _ i ih =>
      intro hoff
      cases hnone.symm.trans (firstOffender_eq_some_iff.mpr ⟨hoff, ih⟩)
  · intro hnone
    rw [Option.eq_none_iff_forall_ne_some]
    exact fun i hi => hnone i (firstOffender_eq_some_iff.mp hi).1

theorem decodeCheck_of_length_ne {t : List Byte} (hlen : t.length % 4 ≠ 0) : decodeCheck t = .badLength t.length :=
  if_pos hlen

theorem decodeCheck_of_length {t : List Byte} (hlen : t.length % 4 = 0) :
    decodeCheck t = (firstOffender t).elim .ok .badCharacter := by
  rw [decodeCheck, if_neg (not_not_intro hlen)]
  cases firstOffender t <;> rfl

theorem decodeCheck_eq_badLength_iff (t : List Byte) (n : Nat) :
    decodeCheck t = .badLength n ↔ t.length % 4 ≠ 0 ∧ n = t.length := by
  by_cases hlen : t.length % 4 = 0
  · rw [decodeCheck_of_length hlen]
    cases firstOffender t <;> simp [hlen]
  · simp [decodeCheck_of_length_ne hlen, hlen, eq_comm]

theorem decodeCheck_eq_badCharacter_iff (t : List Byte) (i : Nat) :
    decodeCheck t = .badCharacter i ↔ t.length % 4 = 0 ∧ FirstOffends t i := by
  rw [← firstOffender_eq_some_iff]
  by_cases hlen : t.length % 4 = 0
  · rw [decodeCheck_of_length hlen]
    cases firstOffender t <;> simp [hlen]
  · simp [decodeCheck_of_length_ne hlen, hlen]

theorem decodeCheck_eq_ok_iff_not_offends (t : List Byte) :
    decodeCheck t = .ok ↔ t.length % 4 = 0 ∧ ∀ i, ¬ Offends t i := by
  rw [← firstOffender_eq_none_iff]
  by_cases hlen : t.length % 4 = 0
  · rw [decodeCheck_of_length hlen]
    cases firstOffender t <;> simp [hlen]
  · simp [decodeCheck_of_length_ne hlen, hlen]

theorem decodeCheck_eq_ok_iff (t : List Byte) : decodeCheck t = .ok ↔ t.length % 4 = 0 ∧ DataThenPads t := by
  rw [decodeCheck_eq_ok_iff_not_offends, forall_not_offends_iff]

end Sys2Proof.Machine

namespace Sys2Proof.Proofs

/-- Settles O41: the length check first, then the first offender; a text without one is data and then at most two pads. -/
theorem decodeCheckReportsFirstFault : Obligations.DecodeCheckReportsFirstFault := fun t =>
  ⟨decodeCheck_eq_badLength_iff t, decodeCheck_eq_badCharacter_iff t, decodeCheck_eq_ok_iff_not_offends t,
    decodeCheck_eq_ok_iff t⟩

end Sys2Proof.Proofs
end

/-! ### DECODE by index (42_base64.md R109) -/

section
open Sys2Proof Sys2Proof.Machine

namespace Sys2Proof.Machine

/-! #### Counting pads -/

theorem padCount_eq_length_filter (t : List Byte) : padCount t = (t.filter fun e => decide (e = padChar)).length := by
  simp only [padCount, charClass_eq_pad_iff, List.countP_eq_length_filter]

theorem padCount_append (t u : List Byte) : padCount (t ++ u) = padCount t + padCount u := List.countP_append

theorem padCount_of_data {t : List Byte} (h : ∀ c ∈ t, charClass c = .data) : padCount t = 0 :=
  List.countP_eq_zero.mpr fun c hc => by simp [h c hc]

theorem padCount_pads (p : Nat) : padCount (List.replicate p padChar) = p := by
  simp [padCount, List.countP_replicate]

theorem trailingPads_pads {d : List Byte} (h : ∀ c ∈ d, charClass c = .data) (p : Nat) :
    trailingPads (d ++ List.replicate p padChar) = p := by
  have hdata : d.reverse.takeWhile (fun c => decide (c = padChar)) = [] := by
    rw [List.takeWhile_eq_nil_iff]
    intro hpos hpad
    have hmem := List.mem_reverse.mp (List.get_mem d.reverse ⟨0, hpos⟩)
    rw [of_decide_eq_true hpad] at hmem
    cases h padChar hmem
  simp [trailingPads, hdata]

/-! #### Quanta -/

/-- The three bytes of the 24 bits of a quantum, the first most significant. -/
def quantumBytes (v : BitVec 24) : List Byte := [v.extractLsb' 16 8, v.extractLsb' 8 8, v.extractLsb' 0 8]

/-- Each of up to two pads takes one byte off the end of a quantum. -/
theorem decodeQuantum_eq_take {a b c d : Byte} (h : padCount [a, b, c, d] ≤ 2) :
    decodeQuantum a b c d = (quantumBytes (quantumBits a b c d)).take (3 - padCount [a, b, c, d]) := by
  simp only [decodeQuantum]
  generalize padCount [a, b, c, d] = k at h
  interval_cases k <;> rfl

/-- DECODE takes quanta off one by one, so that a prefix of whole quanta is decoded by itself. -/
theorem b64Decode_append {u : List Byte} (w : List Byte) (h : u.length % 4 = 0) :
    b64Decode (u ++ w) = b64Decode u ++ b64Decode w := by
  induction u using fours_induction with
  | short u hu =>
    obtain rfl : u = [] := List.length_eq_zero_iff.mp (by omega)
    simp
  | quantum a b c d rest ih =>
    have hrest : rest.length % 4 = 0 := (Nat.add_mod_right rest.length 4).symm.trans h
    simp only [List.cons_append, b64Decode_quantum, ih hrest, List.append_assoc]

/-- DECODE gives three bytes for each quantum, less one for each pad. -/
theorem b64Decode_length {t : List Byte} (hlen : t.length % 4 = 0) (hpads : padCount t ≤ 2) :
    (b64Decode t).length + padCount t = 3 * (t.length / 4) := by
  induction t using fours_induction with
  | short t ht =>
    obtain rfl : t = [] := List.length_eq_zero_iff.mp (by omega)
    rfl
  | quantum a b c d rest ih =>
    have hrest : rest.length % 4 = 0 := (Nat.add_mod_right rest.length 4).symm.trans hlen
    have hsplit : padCount (a :: b :: c :: d :: rest) = padCount [a, b, c, d] + padCount rest :=
      padCount_append [a, b, c, d] rest
    have hquantum : (decodeQuantum a b c d).length = 3 - padCount [a, b, c, d] := by
      rw [decodeQuantum_eq_take (by omega)]
      simp [quantumBytes]
    have hbytes := ih hrest (by omega)
    simp only [b64Decode_quantum, List.length_append, List.length_cons, hquantum, hsplit]
    omega

/-- After the bytes of `q` quanta of data comes the decoding of the characters after them. -/
theorem b64Decode_drop {t : List Byte} {q : Nat} (h : 4 * q ≤ t.length) (hdata : padCount (t.take (4 * q)) = 0) :
    (b64Decode t).drop (3 * q) = b64Decode (t.drop (4 * q)) := by
  have hlen : (t.take (4 * q)).length = 4 * q := List.length_take_of_le h
  have hbytes : (b64Decode (t.take (4 * q))).length = 3 * q := by
    have hcount := b64Decode_length (t := t.take (4 * q)) (by omega) (by omega)
    omega
  conv_lhs => rw [← List.take_append_drop (4 * q) t, b64Decode_append _ (by omega)]
  exact List.drop_left' hbytes

/-- The bytes of the quantum after `q` quanta of data stand at `3 q` and after, as many as its pads leave. -/
theorem b64Decode_getElem? {t rest : List Byte} {q : Nat} {a b c d : Byte} (h : t.drop (4 * q) = a :: b :: c :: d :: rest)
    (hdata : padCount (t.take (4 * q)) = 0) (hpads : padCount [a, b, c, d] ≤ 2) {j : Nat}
    (hj : j < 3 - padCount [a, b, c, d]) :
    (b64Decode t)[3 * q + j]? = (quantumBytes (quantumBits a b c d))[j]? := by
  have hle : 4 * q < t.length := List.length_lt_of_drop_ne_nil (h ▸ List.cons_ne_nil _ _)
  have hdrop : (b64Decode t).drop (3 * q) = decodeQuantum a b c d ++ b64Decode rest := by
    rw [b64Decode_drop hle.le hdata, h, b64Decode_quantum]
  rw [decodeQuantum_eq_take hpads] at hdrop
  have hshort : j < ((quantumBytes (quantumBits a b c d)).take (3 - padCount [a, b, c, d])).length := by
    simp only [quantumBytes, List.length_take, List.length_cons, List.length_nil]
    omega
  rw [getElem?_of_drop_eq hdrop hshort, List.getElem?_take_of_lt hj]

/-! #### The pads of an accepted text -/

theorem DataThenPads.padCount_eq_trailingPads {t : List Byte} (h : DataThenPads t) : padCount t = trailingPads t := by
  obtain ⟨d, p, -, rfl, hd⟩ := h
  rw [padCount_append, padCount_of_data hd, padCount_pads, trailingPads_pads hd, Nat.zero_add]

theorem DataThenPads.padCount_le {t : List Byte} (h : DataThenPads t) : padCount t ≤ 2 := by
  obtain ⟨d, p, hp, rfl, hd⟩ := h
  rwa [padCount_append, padCount_of_data hd, padCount_pads, Nat.zero_add]

/-- The pads are among the last two characters. -/
theorem DataThenPads.padCount_take {t : List Byte} (h : DataThenPads t) {n : Nat} (hn : n + 2 ≤ t.length) :
    padCount (t.take n) = 0 := by
  obtain ⟨d, p, hp, rfl, hd⟩ := h
  rw [List.length_append, List.length_replicate] at hn
  rw [List.take_append_of_le_length (by omega)]
  exact padCount_of_data fun c hc => hd c (List.mem_of_mem_take hc)

end Sys2Proof.Machine

namespace Sys2Proof.Proofs

/-- Settles O42: in an accepted text every quantum stands after quanta of data, and the pads in it take its last bytes off. -/
theorem decodeByIndex : Obligations.DecodeByIndex := by
  refine ⟨fun t ht => ?_, by decide, by decide, by decide⟩
  obtain ⟨hlen, hshape⟩ := (decodeCheck_eq_ok_iff t).mp ht
  constructor
  · have hcount := b64Decode_length hlen hshape.padCount_le
    rw [hshape.padCount_eq_trailingPads] at hcount
    omega
  · rintro q a b c d ha hb hc hd v k rfl hk
    have hdrop : t.drop (4 * q) = a :: b :: c :: d :: t.drop (4 * q + 4) := by
      rw [drop_of_getElem? ha, drop_of_getElem? hb, drop_of_getElem? hc, drop_of_getElem? hd]
    have hend : 4 * q + 3 < t.length := (List.getElem?_eq_some_iff.mp hd).1
    have hdata : padCount (t.take (4 * q)) = 0 := hshape.padCount_take (by omega)
    have hquantum : [a, b, c, d].Sublist (t.drop (4 * q)) := hdrop ▸ List.sublist_append_left [a, b, c, d] _
    have hpads : padCount [a, b, c, d] ≤ 2 :=
      (hquantum.trans (List.drop_sublist _ t)).countP_le.trans hshape.padCount_le
    have hat (j : Nat) := b64Decode_getElem? hdrop hdata hpads (j := j)
    obtain rfl : k = padCount [a, b, c, d] := hk.trans (padCount_eq_length_filter _).symm
    exact ⟨hat 0 (by omega), fun hone => hat 1 (by omega), fun hzero => hat 2 (by omega)⟩

end Sys2Proof.Proofs
end

/-! ### Decoding an encoder output (42_base64.md R114, R116) -/

section
open Sys2Proof Sys2Proof.Machine

namespace Sys2Proof.Machine

@[simp] theorem charClass_sextetChar (v : BitVec 24) (lo : Nat) : charClass (sextetChar v lo) = .data := charClass_elut _

@[simp] theorem sextet_sextetChar (v : BitVec 24) (lo : Nat) : sextet (sextetChar v lo) = v.extractLsb' lo 6 := sextet_elut _

/-! #### One group -/

theorem quantumBytes_groupBits (a b c : Byte) : quantumBytes (groupBits a b c) = [a, b, c] := by
  have hfirst : (groupBits a b c).extractLsb' 16 8 = a :=
    (BitVec.extractLsb'_append_eq_of_le (xhi := a ++ b) (by decide)).trans BitVec.extractLsb'_append_eq_left
  have hsecond : (groupBits a b c).extractLsb' 8 8 = b :=
    (BitVec.extractLsb'_append_eq_of_le (xhi := a ++ b) (by decide)).trans BitVec.extractLsb'_append_eq_right
  have hthird : (groupBits a b c).extractLsb' 0 8 = c := BitVec.extractLsb'_append_eq_right
  rw [quantumBytes, hfirst, hsecond, hthird]

/-- The four sextets of a group make up its 24 bits. -/
theorem append_sextets (v : BitVec 24) :
    ((v.extractLsb' 18 6 ++ v.extractLsb' 12 6) ++ v.extractLsb' 6 6) ++ v.extractLsb' 0 6 = v := by
  have hjoin {hi lo m n : Nat} (h : hi = lo + n) : v.extractLsb' hi m ++ v.extractLsb' lo n = v.extractLsb' lo (m + n) :=
    BitVec.extractLsb'_append_extractLsb'_eq_extractLsb' h
  rw [hjoin (hi := 18) (lo := 12) rfl, hjoin (hi := 12) (lo := 6) rfl, hjoin (hi := 6) (lo := 0) rfl]
  exact BitVec.extractLsb'_eq_self

/-- The sextets of a group that lie in its zero padding bits. -/
theorem groupBits_lastSextet (a b : Byte) : (groupBits a b 0).extractLsb' 0 6 = 0 := by
  rw [groupBits, BitVec.extractLsb'_append_eq_of_add_le (by decide)]
  decide

theorem groupBits_thirdSextet : ∀ a : Byte, (groupBits a 0 0).extractLsb' 6 6 = 0 := by decide +kernel

/-- A quantum with the bits of a group decodes to the bytes of the group, less one for each pad. -/
theorem decodeQuantum_of_bits {w x y z a b c : Byte} {k : Nat} (hbits : quantumBits w x y z = groupBits a b c)
    (hcount : padCount [w, x, y, z] = k) (hk : k ≤ 2) : decodeQuantum w x y z = [a, b, c].take (3 - k) := by
  rw [decodeQuantum_eq_take (hcount ▸ hk), hbits, quantumBytes_groupBits, hcount]

theorem b64Decode_b64Encode_one (a : Byte) : b64Decode (b64Encode [a]) = [a] := by
  have hbits : quantumBits (sextetChar (groupBits a 0 0) 18) (sextetChar (groupBits a 0 0) 12) padChar padChar =
      groupBits a 0 0 := by
    conv_rhs => rw [← append_sextets (groupBits a 0 0), groupBits_thirdSextet, groupBits_lastSextet]
    simp only [quantumBits, sextet_sextetChar, sextet_padChar]
  rw [b64Encode_one, b64Decode_quantum, decodeQuantum_of_bits hbits (k := 2) (by simp [padCount]) (by decide)]
  simp

theorem b64Decode_b64Encode_two (a b : Byte) : b64Decode (b64Encode [a, b]) = [a, b] := by
  have hbits : quantumBits (sextetChar (groupBits a b 0) 18) (sextetChar (groupBits a b 0) 12)
      (sextetChar (groupBits a b 0) 6) padChar = groupBits a b 0 := by
    conv_rhs => rw [← append_sextets (groupBits a b 0), groupBits_lastSextet]
    simp only [quantumBits, sextet_sextetChar, sextet_padChar]
  rw [b64Encode_two, b64Decode_quantum, decodeQuantum_of_bits hbits (k := 1) (by simp [padCount]) (by decide)]
  simp

theorem decodeQuantum_group (a b c : Byte) :
    decodeQuantum (sextetChar (groupBits a b c) 18) (sextetChar (groupBits a b c) 12) (sextetChar (groupBits a b c) 6)
      (sextetChar (groupBits a b c) 0) = [a, b, c] := by
  have hbits := append_sextets (groupBits a b c)
  simp only [← sextet_sextetChar] at hbits
  rw [decodeQuantum_of_bits hbits (k := 0) (by simp [padCount]) (by decide)]
  rfl

/-! #### The whole text -/

theorem b64Decode_b64Encode (b : List Byte) : b64Decode (b64Encode b) = b := by
  induction b using threes_induction with
  | nil => simp
  | one a => exact b64Decode_b64Encode_one a
  | two a b => exact b64Decode_b64Encode_two a b
  | group a b c rest ih =>
    rw [b64Encode_group]
    simp only [List.cons_append, List.nil_append, b64Decode_quantum, decodeQuantum_group, ih]

theorem dataThenPads_b64Encode (b : List Byte) : DataThenPads (b64Encode b) := by
  induction b using threes_induction with
  | nil => exact dataThenPads_pads (p := 0) (by decide)
  | one a => simp [b64Encode_one, dataThenPads_cons_iff]
  | two a b => simp [b64Encode_two, dataThenPads_cons_iff]
  | group a b c rest ih => simp [b64Encode_group, dataThenPads_cons_iff, ih]

theorem decodeCheck_b64Encode (b : List Byte) : decodeCheck (b64Encode b) = .ok :=
  (decodeCheck_eq_ok_iff _).mpr ⟨by rw [b64Encode_length, Nat.mul_mod_right], dataThenPads_b64Encode b⟩

theorem DataThenPads.data_or_pad {t : List Byte} (h : DataThenPads t) {c : Byte} (hc : c ∈ t) :
    charClass c = .data ∨ charClass c = .pad := by
  obtain ⟨d, p, -, rfl, hd⟩ := h
  obtain hmem | hmem := List.mem_append.mp hc
  · exact .inl (hd c hmem)
  · exact .inr (List.eq_of_mem_replicate hmem ▸ charClass_padChar)

theorem DataThenPads.not_invalid {t : List Byte} (h : DataThenPads t) {c : Byte} (hc : c ∈ t) : charClass c ≠ .invalid := by
  obtain hdata | hpad := h.data_or_pad hc
  · simp [hdata]
  · simp [hpad]

end Sys2Proof.Machine

namespace Sys2Proof.Proofs

/-- Settles O43, group by group; the converse fails for "TR==", which decodes as "TQ==" does. -/
theorem decodeOfB64EncodeIsSame : Obligations.DecodeOfB64EncodeIsSame :=
  ⟨fun b => ⟨decodeCheck_b64Encode b, b64Decode_b64Encode b⟩, [0x54, 0x52, 0x3D, 0x3D], by decide, by decide⟩

end Sys2Proof.Proofs
end

/-! ### VAL on input of either kind (42_base64.md R110, R116) -/

section
open Sys2Proof Sys2Proof.Machine

namespace Sys2Proof.Machine

theorem b64Valid_iff (t : List Byte) : b64Valid t = true ↔ ∀ c ∈ t, charClass c ≠ .invalid := by
  simp only [b64Valid, List.all_eq_true, decide_eq_true_eq]

theorem val_reads (s : State) : Reads .val s (if b64Valid s.ibuf then 1 else 0) := reads_of_respond rfl

theorem val_reads_one {s : State} (h : ∀ c ∈ s.ibuf, charClass c ≠ .invalid) : Reads .val s 1 := by
  have hval := val_reads s
  rwa [if_pos ((b64Valid_iff _).mpr h)] at hval

theorem val_reads_zero {s : State} (h : ∃ c ∈ s.ibuf, charClass c = .invalid) : Reads .val s 0 := by
  obtain ⟨c, hc, hinvalid⟩ := h
  have hval := val_reads s
  rwa [if_neg fun hvalid => (b64Valid_iff _).mp hvalid c hc hinvalid] at hval

end Sys2Proof.Machine

namespace Sys2Proof.Proofs

/-- Settles O44, by the shape of an encoder output. -/
theorem encoderOutputIsValid : Obligations.EncoderOutputIsValid := by
  intro b
  have hshape := dataThenPads_b64Encode b
  exact ⟨fun _ => hshape.data_or_pad, fun s hs => val_reads_one fun _ hc => hshape.not_invalid (hs ▸ hc)⟩

/-- Settles O49: the row of VAL, its two answers, and the shape of a text that passes DECODE_CHECK. -/
theorem valEffect : Obligations.ValEffect := by
  refine ⟨plainRow_of_decode (by decide) fun _ wd => decode_val wd,
    fun s => ⟨val_reads_one, val_reads_zero, fun hok => ?_⟩⟩
  have hshape := ((decodeCheck_eq_ok_iff _).mp hok).2
  exact val_reads_one fun _ => hshape.not_invalid

end Sys2Proof.Proofs
end

/-! ### ICLR, IPUSH, ENC and DEC (42_base64.md R103 to R107) -/

section
open Sys2Proof Sys2Proof.Machine

namespace Sys2Proof.Proofs

/-- Settles O46: the rows of ICLR and IPUSH, and the two outcomes of IPUSH. -/
theorem inputBufferEffect : Obligations.InputBufferEffect := by
  refine ⟨plainRow_of_decode (by decide) fun _ wd => decode_iclr wd, plainRow_of_decode (by decide) fun _ wd => decode_ipush wd,
    fun s b => ⟨?_, fun hroom => ?_, fun hfull => ?_⟩⟩
  · exact ⟨_, rfl, delivers_respond s.clearInput 0, rfl, rfl, rfl, rfl, rfl, rfl⟩
  · exact ⟨_, exec_ipush_of_room hroom b, delivers_respond (s.appendInput b) 0, rfl, rfl, rfl, rfl, rfl, rfl⟩
  · rw [← hfull]
    exact ⟨_, exec_ipush_of_full hfull b, ⟨rfl, rfl, rfl⟩, sameBlock_refl s⟩

/-- Settles O47: the row of ENC, which writes OBUF and answers its length. -/
theorem encEffect : Obligations.EncEffect :=
  ⟨plainRow_of_decode (by decide) fun _ wd => decode_enc wd, fun s =>
    ⟨_, rfl, rfl, delivers_respond (s.setOutput (b64Encode s.ibuf)) _, rfl, rfl, rfl, rfl, rfl⟩⟩

/-- Settles O48: the row of DEC, and its effect by the outcome of DECODE_CHECK. -/
theorem decEffect : Obligations.DecEffect := by
  refine ⟨plainRow_of_decode (by decide) fun _ wd => decode_dec wd,
    fun s => ⟨fun n hlen => ?_, fun i hchar => ?_, fun hok => ?_⟩⟩
  · obtain ⟨-, rfl⟩ := (decodeCheck_eq_badLength_iff _ n).mp hlen
    exact ⟨_, exec_dec_of_badLength hlen, ⟨rfl, rfl, rfl⟩, sameBlock_refl s⟩
  · exact ⟨_, exec_dec_of_badCharacter hchar, ⟨rfl, rfl, rfl⟩, sameBlock_refl s⟩
  · exact ⟨_, exec_dec_of_ok hok, rfl, delivers_respond (s.setOutput (b64Decode s.ibuf)) _, rfl, rfl, rfl, rfl, rfl⟩

end Sys2Proof.Proofs
end

/-! ### ORD, RDELUT and RDDLUT (42_base64.md R111 to R113) -/

section
open Sys2Proof Sys2Proof.Machine

namespace Sys2Proof.Machine

theorem zextByte_eq_ofNat (b : Byte) : zextByte b = BitVec.ofNat 32 b.toNat := (BitVec.ofNat_toNat 32 b).symm

theorem exec_rdelut (s : State) (v : BitVec 6) : exec (.rdelut v.toNat) s = .next (s.respond (zextByte (elut v))) := by
  have hexec : exec (.rdelut v.toNat) s = .next (s.respond (zextByte (elut (BitVec.ofNat 6 v.toNat)))) :=
    congrArg Host.Outcome.next (State.withIndex_of_lt v.isLt _)
  rwa [BitVec.ofNat_toNat, BitVec.setWidth_eq] at hexec

theorem exec_rddlut (s : State) (c : Byte) : exec (.rddlut c.toNat) s = .next (s.respond (zextByte (dlut c))) := by
  have hexec : exec (.rddlut c.toNat) s = .next (s.respond (zextByte (dlut (BitVec.ofNat 8 c.toNat)))) :=
    congrArg Host.Outcome.next (State.withIndex_of_lt c.isLt _)
  rwa [BitVec.ofNat_toNat, BitVec.setWidth_eq] at hexec

end Sys2Proof.Machine

namespace Sys2Proof.Proofs

/-- Settles O50: the row of ORD, which only responds, and the index check against OLEN. -/
theorem ordEffect : Obligations.OrdEffect := by
  refine ⟨indexedRow_of_decode fun _ wd => decode_ord wd, fun s idx => ⟨fun b hb => ?_, raisesIndexRange rfl rfl⟩⟩
  obtain ⟨hlt, rfl⟩ := List.getElem?_eq_some_iff.mp hb
  rw [← zextByte_eq_ofNat]
  exact reads_of_respond (exec_ord hlt)

/-- Settles O51: the rows of the two table reads, their entries, and the index checks. -/
theorem tableReadEffect : Obligations.TableReadEffect := by
  refine ⟨indexedRow_of_decode fun _ wd => decode_rdelut wd, indexedRow_of_decode fun _ wd => decode_rddlut wd,
    fun s => ⟨fun v => ?_, fun _ => raisesIndexRange rfl rfl, fun c => ⟨?_, (charClass_eq_invalid_iff c).not⟩,
      fun _ => raisesIndexRange rfl rfl⟩⟩
  · rw [← zextByte_eq_ofNat]
    exact reads_of_respond (exec_rdelut s v)
  · rw [← zextByte_eq_ofNat]
    exact reads_of_respond (exec_rddlut s c)

end Sys2Proof.Proofs
end

/-! ## Proofs of the family 60_exceptions.md -/

/-! ### Causes and information words (60_exceptions.md R131, R132) -/

section
open Sys2Proof Sys2Proof.Machine

namespace Sys2Proof.Machine

/-- The condition of each error, on the bits of the command word and on unit B (60_exceptions.md R131).  OK is no error, and
code 1 is never raised (R140). -/
def ErrorCondition (cw : Word) (s : State) : Err → Prop
  | .ok | .invalidKeyLength => False
  | .invalidBase64Length => cw = 0x23000000 ∧ s.ibuf.length % 4 ≠ 0
  | .invalidBase64Character => cw = 0x23000000 ∧ s.ibuf.length % 4 = 0 ∧ ∃ i, Offends s.ibuf i
  | .illegalCommand => IllegalWord cw
  | .indexRange => cw.toNat / 2 ^ 16 % 2 ^ 8 = 0 ∧
      ∃ p ∈ indexBounds s.obuf.length, p.1 = cw.toNat / 2 ^ 24 ∧ p.2 ≤ cw.toNat % 2 ^ 16
  | .bufferFull => cw = 0x21000000 ∧ s.ibuf.length = s.cfg.nb

/-- The information word of each error (60_exceptions.md R132). -/
def ErrorInformation (cw : Word) (s : State) (info : Word) : Err → Prop
  | .ok | .invalidKeyLength => False
  | .invalidBase64Length => info = BitVec.ofNat 32 s.ibuf.length
  | .invalidBase64Character => ∀ i, Offends s.ibuf i → (∀ j, j < i → ¬ Offends s.ibuf j) → info = BitVec.ofNat 32 i
  | .illegalCommand => info = cw
  | .indexRange => info.toNat = cw.toNat % 2 ^ 16
  | .bufferFull => info = BitVec.ofNat 32 s.ibuf.length

/-! #### IndexRange -/

theorem zextNat_index_toNat (cw : Word) : (zextNat (cw.toNat % 2 ^ 16)).toNat = cw.toNat % 2 ^ 16 := by
  rw [zextNat, BitVec.toNat_ofNat]
  omega

/-- The bounds by opcode are those of the commands. -/
theorem indexOutOfRange_iff_indexBounds (s : State) (i : Instr) : s.indexOutOfRange i = true ↔
    ∃ p ∈ indexBounds s.obuf.length, p.1 = (opcode i).toNat ∧ p.2 ≤ i.index?.getD 0 := by
  cases i <;> simp [State.indexOutOfRange, Instr.index?, State.indexBound?, State.olen, indexBounds, opcode]

theorem opcode_of_mem_indexBounds {olen : Nat} {p : Nat × Nat} (h : p ∈ indexBounds olen) :
    p.1 ∈ opcodeNumbers ∧ p.1 ∉ plainOpcodeNumbers := by
  have hall : ∀ op ∈ [0x01, 0x10, 0x11, 0x12, 0x14, 0x25, 0x26, 0x27],
      op ∈ opcodeNumbers ∧ op ∉ plainOpcodeNumbers := by decide
  exact hall p.1 (List.mem_map_of_mem (f := Prod.fst) h)

/-- On a decoded word the condition of IndexRange is the one its command checks. -/
theorem indexRange_condition_iff {cw wd : Word} {i : Instr} (hd : decode cw wd = some i) (s : State) :
    ErrorCondition cw s .indexRange ↔ s.indexOutOfRange i = true := by
  obtain ⟨hupper, hidx⟩ := halves_of_decode hd
  have hop : (opcode i).toNat = cw.toNat / 2 ^ 24 := by omega
  have hrsv : cw.toNat / 2 ^ 16 % 2 ^ 8 = 0 := by omega
  rw [indexOutOfRange_iff_indexBounds, hop, ← hidx]
  exact and_iff_right hrsv

/-- An index out of range is reported for legal words alone. -/
theorem decode_of_indexRange_condition {cw : Word} {s : State} (h : ErrorCondition cw s .indexRange) (wd : Word) :
    ∃ i, decode cw wd = some i := by
  obtain ⟨hrsv, p, hp, hop, -⟩ := h
  obtain ⟨hmem, hplain⟩ := opcode_of_mem_indexBounds hp
  have hlegal : ¬ IllegalWord cw := by
    rintro (hno | hno | ⟨hno, -⟩)
    · exact hno (hop ▸ hmem)
    · exact hno hrsv
    · exact hplain (hop ▸ hno)
  exact Option.ne_none_iff_exists'.mp (mt (decode_eq_none_iff cw wd).mp hlegal)

/-! #### A condition that holds is reported -/

theorem exists_firstOffends {t : List Byte} (h : ∃ i, Offends t i) : ∃ i, FirstOffends t i := by
  classical
  exact ⟨Nat.find h, Nat.find_spec h, fun _ => Nat.find_min h⟩

/-- A text has one first offender, so that whatever index is one is the one reported. -/
theorem characterInformation_of_firstOffends {cw : Word} {s : State} {n : Nat} (h : FirstOffends s.ibuf n) :
    ErrorInformation cw s (zextNat n) .invalidBase64Character := by
  intro i hoff hfirst
  have hsame := (firstOffender_eq_some_iff.mpr h).symm.trans (firstOffender_eq_some_iff.mpr ⟨hoff, hfirst⟩)
  rw [Option.some.inj hsame, zextNat]

theorem runCommand_of_errorCondition {cw : Word} {s : State} {e : Err} (h : ErrorCondition cw s e) (wd : Word) :
    ∃ info, ErrorInformation cw s info e ∧ runCommand cw wd s = .next (s.raise e info) := by
  cases e with
  | ok => exact h.elim
  | invalidKeyLength => exact h.elim
  | invalidBase64Length =>
    obtain ⟨rfl, hlen⟩ := h
    exact ⟨_, rfl, (runCommand_of_some (decode_dec wd rfl) s).trans (exec_dec_of_badLength (decodeCheck_of_length_ne hlen))⟩
  | invalidBase64Character =>
    obtain ⟨rfl, hlen, hoff⟩ := h
    obtain ⟨n, hfirst⟩ := exists_firstOffends hoff
    have hcheck := (decodeCheck_eq_badCharacter_iff s.ibuf n).mpr ⟨hlen, hfirst⟩
    exact ⟨_, characterInformation_of_firstOffends hfirst,
      (runCommand_of_some (decode_dec wd rfl) s).trans (exec_dec_of_badCharacter hcheck)⟩
  | illegalCommand => exact ⟨_, rfl, runCommand_of_none ((decode_eq_none_iff cw wd).mpr h) s⟩
  | indexRange =>
    obtain ⟨i, hd⟩ := decode_of_indexRange_condition h wd
    have hrun := exec_of_indexOutOfRange ((indexRange_condition_iff hd s).mp h)
    obtain ⟨-, hidx⟩ := halves_of_decode hd
    rw [← hidx] at hrun
    exact ⟨_, zextNat_index_toNat cw, (runCommand_of_some hd s).trans hrun⟩
  | bufferFull =>
    obtain ⟨rfl, hfull⟩ := h
    exact ⟨_, rfl, (runCommand_of_some (decode_ipush wd rfl) s).trans (exec_ipush_of_full hfull _)⟩

/-! #### No other condition raises an error -/

/-- A command whose index is in range, which finds room if it is IPUSH and an accepted text if it is DEC, answers OK. -/
theorem exec_responds {i : Instr} {s : State} (hrange : s.indexOutOfRange i ≠ true)
    (hroom : ∀ b, i = .ipush b → s.ilen ≠ s.cfg.nb) (hcheck : i = .dec → decodeCheck s.ibuf = .ok) :
    ∃ u v, Writes s i u ∧ exec i s = .next (u.respond v) := by
  have inRange {idx bound : Nat} (h : decide (bound ≤ idx) ≠ true) : idx < bound := by simpa using h
  have indexed {idx bound : Nat} (h : idx < bound) (body : Fin bound → State) :
      (Host.Outcome.next (s.withIndex idx bound body) : Host.Outcome State Fault Refusal) = .next (body ⟨idx, h⟩) :=
    congrArg _ (State.withIndex_of_lt h body)
  cases i with
  | nop => exact ⟨_, _, .nothing, rfl⟩
  | rdsr idx => exact ⟨_, _, .nothing, indexed (inRange hrange) _⟩
  | srst => exact ⟨_, _, .srst, rfl⟩
  | ldkey idx wd => exact ⟨_, _, .ldkey ⟨idx, inRange hrange⟩ wd, indexed (inRange hrange) _⟩
  | ldsid idx wd => exact ⟨_, _, .ldsid ⟨idx, inRange hrange⟩ wd, indexed (inRange hrange) _⟩
  | ldpos idx wd => exact ⟨_, _, .ldpos ⟨idx, inRange hrange⟩ wd, indexed (inRange hrange) _⟩
  | gen => exact ⟨_, _, .gen, rfl⟩
  | rdx idx => exact ⟨_, _, .nothing, indexed (inRange hrange) _⟩
  | iclr => exact ⟨_, _, .iclr, rfl⟩
  | ipush data => exact ⟨_, _, .ipush data (hroom data rfl), exec_ipush_of_room (hroom data rfl) data⟩
  | enc => exact ⟨_, _, .enc, rfl⟩
  | dec => exact ⟨_, _, .dec, exec_dec_of_ok (hcheck rfl)⟩
  | val => exact ⟨_, _, .nothing, rfl⟩
  | ord idx => exact ⟨_, _, .nothing, indexed (inRange hrange) _⟩
  | rdelut idx => exact ⟨_, _, .nothing, indexed (inRange hrange) _⟩
  | rddlut idx => exact ⟨_, _, .nothing, indexed (inRange hrange) _⟩

/-- A command without an index has one word. -/
theorem eq_of_decode_plain {cw wd : Word} {i : Instr} {op : BitVec 8} (hd : decode cw wd = some i) (hidx : i.index? = none)
    (hop : opcode i = op) : cw = commandWord op 0 := by
  rw [← (encode_of_decode hd).2, encode, hidx, hop]
  rfl

/-- DEC accepts the text where neither of its two errors has its condition. -/
theorem decodeCheck_eq_ok_of_no_errorCondition {s : State} (hnone : ∀ e, ¬ ErrorCondition 0x23000000 s e) :
    decodeCheck s.ibuf = .ok := by
  have hlen : s.ibuf.length % 4 = 0 := by
    by_contra hlen
    exact hnone .invalidBase64Length ⟨rfl, hlen⟩
  exact (decodeCheck_eq_ok_iff_not_offends s.ibuf).mpr
    ⟨hlen, fun i hoff => hnone .invalidBase64Character ⟨rfl, hlen, i, hoff⟩⟩

/-- A command word that meets no condition is answered OK. -/
theorem runCommand_of_no_errorCondition {cw : Word} {s : State} (hnone : ∀ e, ¬ ErrorCondition cw s e) (wd : Word) :
    ∃ t v, runCommand cw wd s = .next t ∧ t.responses = s.responses ++ [⟨0, v⟩] := by
  obtain ⟨i, hd⟩ := Option.ne_none_iff_exists'.mp (mt (decode_eq_none_iff cw wd).mp (hnone .illegalCommand))
  have hrange := mt (indexRange_condition_iff hd s).mpr (hnone .indexRange)
  have hroom : ∀ b, i = .ipush b → s.ilen ≠ s.cfg.nb := by
    rintro b rfl hfull
    exact hnone .bufferFull ⟨eq_of_decode_plain (op := 0x21) hd rfl rfl, hfull⟩
  have hcheck : i = .dec → decodeCheck s.ibuf = .ok := by
    rintro rfl
    obtain rfl := eq_of_decode_plain (op := 0x23) hd rfl rfl
    exact decodeCheck_eq_ok_of_no_errorCondition hnone
  obtain ⟨u, v, w, hexec⟩ := exec_responds hrange hroom hcheck
  obtain ⟨-, -, hresponses⟩ := w.ends
  exact ⟨_, v, (runCommand_of_some hd s).trans hexec, by rw [State.respond_responses, hresponses]; rfl⟩

/-! #### The response of a command -/

section
variable {cw wd : Word} {s t : State} {r : Response} (h : runCommand cw wd s = .next t)
  (hr : t.responses = s.responses ++ [r])
include h hr

/-- A condition that holds gives the response its code and its information word, and nothing else happens. -/
theorem raised_of_errorCondition {e : Err} (he : ErrorCondition cw s e) :
    r.err = e.code ∧ ErrorInformation cw s r.data e ∧ t = { s with responses := s.responses ++ [r] } := by
  obtain ⟨info, hinfo, hrun⟩ := runCommand_of_errorCondition he wd
  cases h.symm.trans hrun
  cases List.append_cancel_left hr
  exact ⟨rfl, hinfo, rfl⟩

theorem errorCondition_of_err_ne (hne : r.err ≠ 0) : ∃ e, ErrorCondition cw s e := by
  by_contra hnone
  obtain ⟨u, v, hrun, hresponses⟩ := runCommand_of_no_errorCondition (not_exists.mp hnone) wd
  cases h.symm.trans hrun
  cases List.append_cancel_left (hr.symm.trans hresponses)
  exact hne rfl

/-- The code of an error is reported exactly where its condition holds, and then with its information word. -/
theorem err_eq_code {e : Err} (hne : e.code ≠ 0) :
    (r.err = e.code ↔ ErrorCondition cw s e) ∧ (r.err = e.code → ErrorInformation cw s r.data e) := by
  have hcond : r.err = e.code → ErrorCondition cw s e := by
    intro hcode
    obtain ⟨e', he'⟩ := errorCondition_of_err_ne h hr (hcode ▸ hne)
    obtain ⟨hcode', -⟩ := raised_of_errorCondition h hr he'
    exact Err.code_injective (hcode.symm.trans hcode') ▸ he'
  exact ⟨⟨hcond, fun he => (raised_of_errorCondition h hr he).1⟩,
    fun hcode => (raised_of_errorCondition h hr (hcond hcode)).2.1⟩

end

end Sys2Proof.Machine

namespace Sys2Proof.Proofs

/-- Settles O11, error by error; the codes are those of O10. -/
theorem errorConditionsAndInformation : Obligations.ErrorConditionsAndInformation := by
  intro cw wd s t r h hr
  obtain ⟨hillegal, hillegalInfo⟩ := err_eq_code h hr (e := .illegalCommand) (by decide)
  obtain ⟨hrange, hrangeInfo⟩ := err_eq_code h hr (e := .indexRange) (by decide)
  obtain ⟨hfull, hfullInfo⟩ := err_eq_code h hr (e := .bufferFull) (by decide)
  obtain ⟨hlength, hlengthInfo⟩ := err_eq_code h hr (e := .invalidBase64Length) (by decide)
  obtain ⟨hchar, hcharInfo⟩ := err_eq_code h hr (e := .invalidBase64Character) (by decide)
  have hproduced : r.err ∈ producedCodes := by
    obtain ⟨r', hr', hcode⟩ := runCommand_response h
    cases List.append_cancel_left (hr.symm.trans hr')
    exact hcode
  exact ⟨hillegal, hillegalInfo, hrange, hrangeInfo, hfull, hfullInfo, hlength, hlengthInfo, hchar, hcharInfo,
    by simpa only [producedCodes, List.mem_cons, List.not_mem_nil, or_false] using hproduced⟩

/-- Settles O12: a response that is no OK has its error's condition, and a raised error only delivers its response. -/
theorem failedCommandChangesNothing : Obligations.FailedCommandChangesNothing := by
  intro s t cw wd r h hr hne
  obtain ⟨e, he⟩ := errorCondition_of_err_ne h hr hne
  obtain ⟨-, -, hstate⟩ := raised_of_errorCondition h hr he
  exact hstate

end Sys2Proof.Proofs
end

/-! ## Proofs of the family 70_reset_and_hazards.md -/

/-! ### Reset and SRST (70_reset_and_hazards.md R150, R152, R159) -/

section
open Sys2Proof Sys2Proof.Machine

namespace Sys2Proof.Machine

/-- A reset, also one that cuts a command, takes its event off and clears the block. -/
theorem step_of_reset {s : State} {e : HostEvent} {rest : List HostEvent} (hp : s.pending = e :: rest)
    (he : e = .reset ∨ ∃ cw wd, e = .cutByReset cw wd) : step s = .next ({ s with pending := rest } : State).clear := by
  rw [step_of_cons hp]
  obtain rfl | ⟨cw, wd, rfl⟩ := he <;> rfl

end Sys2Proof.Machine

namespace Sys2Proof.Proofs

/-- Settles O8: the step leaves `State.clear`. -/
theorem resetEventGivesResetState : Obligations.ResetEventGivesResetState := fun _ _ _ hp he =>
  ⟨_, step_of_reset hp he, atReset_clear _, rfl, rfl, rfl⟩

/-- Settles O22: SRST leaves `State.clear` as a reset does, and answers (0, 0). -/
theorem softResetEqualsReset : Obligations.SoftResetEqualsReset := fun s wd rest =>
  ⟨_, ({ s with pending := rest } : State).clear, step_of_command rfl (decode_srst wd rfl), step_of_reset rfl (.inl rfl), rfl⟩

end Sys2Proof.Proofs
end

/-! ### What a latency depends on (70_reset_and_hazards.md R157) -/

section
open Sys2Proof Sys2Proof.Machine

namespace Sys2Proof.Machine

/-! #### The latency by outcome -/

theorem latency_of_none {cw wd : Word} (h : decode cw wd = none) (s : State) : latency cw wd s = Config.tError cw 0 := by
  simp only [latency, h]

theorem latency_of_some {cw wd : Word} {i : Instr} (h : decode cw wd = some i) (s : State) :
    latency cw wd s = if s.indexOutOfRange i then Config.tError cw (errorOlen i s) else commandLatency i s := by
  simp only [latency, h]

theorem latency_of_indexOutOfRange {cw wd : Word} {i : Instr} (h : decode cw wd = some i) {s : State}
    (hrange : s.indexOutOfRange i = true) : latency cw wd s = Config.tError cw (errorOlen i s) := by
  rw [latency_of_some h, if_pos hrange]

/-! #### The write-data word -/

theorem indexOutOfRange_withData (i : Instr) (wd : Word) (s : State) :
    s.indexOutOfRange (i.withData wd) = s.indexOutOfRange i := by
  cases i <;> rfl

theorem errorOlen_withData (i : Instr) (wd : Word) (s : State) : errorOlen (i.withData wd) s = errorOlen i s := by
  cases i <;> rfl

theorem commandLatency_withData (i : Instr) (wd : Word) (s : State) :
    commandLatency (i.withData wd) s = commandLatency i s := by
  cases i <;> rfl

/-- Another write-data word makes the same word illegal, or changes the data operand alone. -/
theorem latency_writeData (cw wd wd' : Word) (s : State) : latency cw wd s = latency cw wd' s := by
  cases h : decode cw wd with
  | none =>
    have h' : decode cw wd' = none := (decode_eq_none_iff cw wd').mpr ((decode_eq_none_iff cw wd).mp h)
    rw [latency_of_none h, latency_of_none h']
  | some i =>
    rw [latency_of_some h, latency_of_some (decode_withData h wd'), indexOutOfRange_withData, errorOlen_withData,
      commandLatency_withData]

/-! #### The state -/

theorem commandLatency_congr {i : Instr} (henc : i ≠ .enc) (hdec : i ≠ .dec) (hval : i ≠ .val) (s t : State) :
    commandLatency i s = commandLatency i t := by
  cases i
  case enc => exact absurd rfl henc
  case dec => exact absurd rfl hdec
  case val => exact absurd rfl hval
  all_goals rfl

theorem commandLatency_enc (s : State) : commandLatency .enc s = codecLatency 0x22 s.ibuf.length none := rfl

theorem commandLatency_dec (s : State) :
    commandLatency .dec s = codecLatency 0x23 s.ibuf.length (firstOffender s.ibuf) := rfl

theorem commandLatency_val (s : State) :
    commandLatency .val s = codecLatency 0x24 s.ibuf.length (firstInvalid s.ibuf) := rfl

/-- Only an index error of ORD looks at the state, at OLEN. -/
theorem errorOlen_congr {i : Instr} {s t : State} (h : ∀ n, i = .ord n → s.obuf.length = t.obuf.length) :
    errorOlen i s = errorOlen i t := by
  cases i
  case ord n => exact h n rfl
  all_goals rfl

/-! #### The linear bound -/

theorem codecLatency_le (op : BitVec 8) (len : Nat) (offender : Option Nat) :
    codecLatency op len offender ≤ Config.tSlope op * len + Config.tBase op := min_le_right _ _

/-- One line bounds the codec latencies of finitely many opcodes. -/
theorem codecLatency_le_sum {ops : List (BitVec 8)} {op : BitVec 8} (h : op ∈ ops) (len : Nat) (offender : Option Nat) :
    codecLatency op len offender ≤ (ops.map Config.tSlope).sum * len + (ops.map Config.tBase).sum := by
  have hslope : Config.tSlope op ≤ (ops.map Config.tSlope).sum := List.le_sum_of_mem (List.mem_map_of_mem h)
  have hbase : Config.tBase op ≤ (ops.map Config.tBase).sum := List.le_sum_of_mem (List.mem_map_of_mem h)
  calc codecLatency op len offender
      ≤ Config.tSlope op * len + Config.tBase op := codecLatency_le op len offender
    _ ≤ (ops.map Config.tSlope).sum * len + (ops.map Config.tBase).sum :=
        Nat.add_le_add (Nat.mul_le_mul_right len hslope) hbase

/-- The opcodes of ENC, DEC and VAL. -/
def codecOpcodes : List (BitVec 8) := [0x22, 0x23, 0x24]

end Sys2Proof.Machine

namespace Sys2Proof.Proofs

/-- Settles O54, clause by clause; the bound is the sum of the bounds of ENC, DEC and VAL. -/
theorem latencyDependence : Obligations.LatencyDependence := by
  refine ⟨fun i s t henc hdec hval => commandLatency_congr henc hdec hval s t, fun _ _ _ _ _ _ => ⟨rfl, rfl, rfl, rfl⟩,
    latency_writeData, fun s t hlen => ⟨?_, fun hoff => ?_, fun hinv => ?_⟩,
    ⟨(codecOpcodes.map Config.tSlope).sum, (codecOpcodes.map Config.tBase).sum, fun s => ⟨?_, ?_, ?_⟩⟩,
    fun cw wd wd' s t hnone => ?_, fun cw wd wd' i s t hd hs ht holen => ?_⟩
  · rw [commandLatency_enc, commandLatency_enc, hlen]
  · rw [commandLatency_dec, commandLatency_dec, hlen, firstOffender_congr hoff]
  · rw [commandLatency_val, commandLatency_val, hlen, firstInvalid_congr hinv]
  · exact codecLatency_le_sum (by decide : 0x22 ∈ codecOpcodes) _ _
  · exact codecLatency_le_sum (by decide : 0x23 ∈ codecOpcodes) _ _
  · exact codecLatency_le_sum (by decide : 0x24 ∈ codecOpcodes) _ _
  · rw [latency_writeData cw wd' wd, latency_of_none hnone, latency_of_none hnone]
  · rw [latency_writeData cw wd' wd, latency_of_indexOutOfRange hd hs, latency_of_indexOutOfRange hd ht,
      errorOlen_congr holen]

end Sys2Proof.Proofs
end

/-! ### The port layer abandons a command at reset (70_reset_and_hazards.md R150, R159) -/

section
open Sys2Proof Sys2Proof.Machine

namespace Sys2Proof.Machine

theorem PortState.clocks_cons {p q : PortState} {i : PortIn} (h : p.clock i = .next q) (is : List PortIn) :
    p.clocks (i :: is) = q.clocks is := by
  simp only [PortState.clocks, h]

/-- No command is accepted and unanswered (30_encoding.md R62). -/
def PortState.NothingInFlight (p : PortState) : Prop := ∀ cw wd, ¬ p.InFlight cw wd

theorem PortState.nothingInFlight_held (s : State) : PortState.NothingInFlight ⟨s, .held⟩ := fun _ _ h => h

theorem PortState.nothingInFlight_readyAfter (s : State) (n : Nat) : PortState.NothingInFlight ⟨s, readyAfter n⟩ := by
  obtain h | ⟨m, h⟩ := readyAfter_cases n <;> rw [h] <;> exact fun _ _ h => h

theorem PortState.NothingInFlight.rspValid {p : PortState} (h : p.NothingInFlight) : p.rspValid = false := by
  rw [← Bool.not_eq_true, p.rspValid_iff]
  rintro ⟨cw, wd, done, hp⟩
  exact h cw wd ((p.inFlight_iff cw wd).mpr (.inr ⟨done, hp⟩))

/-- An edge at which the host presents no command, or a reset, brings nothing in flight and keeps a block in its reset state. -/
theorem PortState.NothingInFlight.clock {p : PortState} (h : p.NothingInFlight) (hclear : p.block.clear = p.block)
    {i : PortIn} (hv : i.cmdValid = false) : ∃ q, p.clock i = .next q ∧ q.NothingInFlight ∧ q.block = p.block := by
  cases hrst : i.rstN with
  | false => exact ⟨_, p.clock_of_reset hrst, PortState.nothingInFlight_held _, hclear⟩
  | true =>
    cases hp : p.phase with
    | held => exact ⟨_, PortState.clock_of_held hrst hp, PortState.nothingInFlight_readyAfter _ _, rfl⟩
    | waiting n => exact ⟨_, PortState.clock_of_waiting hrst hp, PortState.nothingInFlight_readyAfter _ _, rfl⟩
    | ready => exact ⟨p, PortState.clock_of_idle hrst hp hv, h, rfl⟩
    | executing cw wd n => exact absurd ((p.inFlight_iff cw wd).mpr (.inl ⟨n, hp⟩)) (h cw wd)
    | responding cw wd done => exact absurd ((p.inFlight_iff cw wd).mpr (.inr ⟨done, hp⟩)) (h cw wd)

theorem PortState.NothingInFlight.clocks {p : PortState} (h : p.NothingInFlight) (hclear : p.block.clear = p.block)
    {is : List PortIn} (his : ∀ i ∈ is, i.cmdValid = false) :
    ∃ q, p.clocks is = .next q ∧ q.NothingInFlight ∧ q.block = p.block := by
  induction is generalizing p with
  | nil => exact ⟨p, rfl, h, rfl⟩
  | cons i rest ih =>
    obtain ⟨hi, hrest⟩ := List.forall_mem_cons.mp his
    obtain ⟨q, hclock, hq, hblock⟩ := h.clock hclear hi
    obtain ⟨r, hclocks, hr, hrblock⟩ := ih hq (by rw [hblock, hclear]) hrest
    exact ⟨r, (PortState.clocks_cons hclock rest).trans hclocks, hr, hrblock.trans hblock⟩

end Sys2Proof.Machine

namespace Sys2Proof.Proofs

/-- Settles O56: a held block has nothing in flight, which every edge without a command keeps. -/
theorem portResetAbandonsCommand : Obligations.PortResetAbandonsCommand := by
  intro p i hrst
  refine ⟨_, p.clock_of_reset hrst, rfl, atReset_clear _, rfl, rfl, rfl, rfl, fun is his => ?_⟩
  obtain ⟨r, hclocks, hr, hblock⟩ := (PortState.nothingInFlight_held p.block.clear).clocks p.block.clear_clear his
  exact ⟨r, hclocks, hr.rspValid, hblock⟩

end Sys2Proof.Proofs
end

/-! ### The port layer answers after the latency (70_reset_and_hazards.md R157, R158) -/

section
open Sys2Proof Sys2Proof.Machine

namespace Sys2Proof.Machine

/-- A command with `n` edges to go is presented with its response after `n` edges without reset. -/
theorem PortState.clocks_of_executeAfter {p q : PortState} {cw wd : Word} {is : List PortIn}
    (his : ∀ j ∈ is, j.rstN = true) (h : p.executeAfter cw wd is.length = .next q) :
    ∃ done, q.clocks is = .next ⟨p.block, .responding cw wd done⟩ ∧ runCommand cw wd p.block = .next done := by
  induction is generalizing p q with
  | nil =>
    obtain ⟨m, hm, -⟩ | ⟨-, done, hrun, hq⟩ := p.executeAfter_cases cw wd ([] : List PortIn).length
    · cases hm
    · cases h.symm.trans hq
      exact ⟨done, rfl, hrun⟩
  | cons j rest ih =>
    obtain ⟨hj, hrest⟩ := List.forall_mem_cons.mp his
    cases h
    obtain ⟨u, hu, -⟩ := PortState.executeAfter_keeps ⟨p.block, .executing cw wd rest.length⟩ cw wd rest.length
    obtain ⟨done, hclocks, hrun⟩ := ih hrest hu
    exact ⟨done, (PortState.clocks_cons ((PortState.clock_of_executing hj rfl).trans hu) rest).trans hclocks, hrun⟩

end Sys2Proof.Machine

namespace Sys2Proof.Proofs

/-- Settles O58: the accepting edge leaves `latency` edges to go. -/
theorem portAnswersWithinLatency : Obligations.PortAnswersWithinLatency := by
  intro p i is hp hrst hv his hlen
  obtain ⟨q, hq, -⟩ := p.executeAfter_keeps i.cmdWord i.cmdWdata is.length
  obtain ⟨done, hclocks, hrun⟩ := PortState.clocks_of_executeAfter his hq
  have haccept : p.clock i = .next q := by rw [PortState.clock_of_accept hrst hp hv, ← hlen, hq]
  exact ⟨_, done, (PortState.clocks_cons haccept is).trans hclocks, rfl, rfl, hrun⟩

end Sys2Proof.Proofs
end
